-- ==== Sys2Proof/Word.lean ====
section
/-! DEFINITION. The word of the LC-3 (R50, R51 of 20_memory.md; R8 of 00_scope.md) and the byte of its devices. -/

namespace Sys2Proof

/-- Every register, memory location, address and instruction has 16 bits (R50, R80); sums wrap (R8). -/
abbrev Word := BitVec 16

/-- A character code or an interrupt vector: eight bits (R41, R43, R151). -/
abbrev Byte := BitVec 8

end Sys2Proof
end

