-- ==== Sys2Proof/Syntax.lean ====
section
/-! DEFINITION. The instructions of the LC-3 as syntax: one constructor for each of the twenty rows of
spec/opcode_table.json (R82, R85 of 30_encoding.md). -/

namespace Sys2Proof

/-- The eight general purpose registers, "numbered from 000 to 111 (R0 to R7)" (R20 of 10_state.md). -/
inductive Reg where
  | r0 | r1 | r2 | r3 | r4 | r5 | r6 | r7
deriving DecidableEq, Repr

/-- An instruction with the fields of its row (R83, R84). Field widths are the encoding's own, so every value of a
field is one the encoding admits. -/
inductive Instr where
  /-- `ADD DR, SR1, SR2` (R101). -/
  | addReg (dr sr1 sr2 : Reg)
  /-- `ADD DR, SR1, imm5` (R101). -/
  | addImm (dr sr1 : Reg) (imm5 : BitVec 5)
  /-- `AND DR, SR1, SR2` (R102). -/
  | andReg (dr sr1 sr2 : Reg)
  /-- `AND DR, SR1, imm5` (R102). -/
  | andImm (dr sr1 : Reg) (imm5 : BitVec 5)
  /-- `BR`, all eight condition forms and the never-taken 000 (R120, R90, R95). -/
  | br (n z p : Bool) (off : BitVec 9)
  /-- `RET`, the word xC1C0 (R122, R91). -/
  | ret
  /-- `JMP BaseR` (R121). -/
  | jmp (base : Reg)
  /-- `JSR LABEL` (R123). -/
  | jsr (off : BitVec 11)
  /-- `JSRR BaseR` (R124). -/
  | jsrr (base : Reg)
  /-- `LD DR, LABEL` (R111). -/
  | ld (dr : Reg) (off : BitVec 9)
  /-- `LDI DR, LABEL` (R112). -/
  | ldi (dr : Reg) (off : BitVec 9)
  /-- `LDR DR, BaseR, offset6` (R113). -/
  | ldr (dr base : Reg) (off : BitVec 6)
  /-- `LEA DR, LABEL` (R114). -/
  | lea (dr : Reg) (off : BitVec 9)
  /-- `NOT DR, SR` (R103). -/
  | notReg (dr sr : Reg)
  /-- `RTI` (R131). -/
  | rti
  /-- `ST SR, LABEL` (R115). -/
  | st (sr : Reg) (off : BitVec 9)
  /-- `STI SR, LABEL` (R116). -/
  | sti (sr : Reg) (off : BitVec 9)
  /-- `STR SR, BaseR, offset6` (R117). -/
  | str (sr base : Reg) (off : BitVec 6)
  /-- `TRAP trapvector8` (R130). -/
  | trap (vect : BitVec 8)
  /-- The reserved opcode 1101 with the twelve bits "not examined" (R88, R132; log 33). -/
  | reserved (bits : BitVec 12)
deriving DecidableEq, Repr

end Sys2Proof
end

