-- ==== Sys2Proof/WellFormed.lean ====
section
/-! DEFINITION. Which terms of Instr stand for a word of their own. The field widths already exclude every operand that
does not fit (R98); the one check left is that the word of `JMP R7` is RET's (R91; log 32). -/

namespace Sys2Proof

/-- "RET is xC1C0, the single word of the JMP format with BaseR = 111" (R91): the decoder names that word RET, so
`jmp r7` is not a term the decoder gives. Every other term is well formed. -/
def Instr.wellFormed : Instr → Bool
  | .jmp base => base != .r7
  | .addReg _ _ _ | .addImm _ _ _ | .andReg _ _ _ | .andImm _ _ _ | .br _ _ _ _ | .ret | .jsr _ | .jsrr _
  | .ld _ _ | .ldi _ _ | .ldr _ _ _ | .lea _ _ | .notReg _ _ | .rti | .st _ _ | .sti _ _ | .str _ _ _
  | .trap _ | .reserved _ => true

end Sys2Proof
end

