-- ==== Sys2Proof/Decode.lean ====
section
/-! DEFINITION. Decoding (R80 to R90, R99 of 30_encoding.md), then the encoder written from the same table (R82, R83,
R87). Total on every word: a word whose fixed bits differ from Figure A.2 is rejected by the name of its row. -/

namespace Sys2Proof

/-- The register a three-bit field names (R20, R83). -/
def Reg.ofBits (b : BitVec 3) : Reg :=
  match b.toNat with
  | 0 => .r0
  | 1 => .r1
  | 2 => .r2
  | 3 => .r3
  | 4 => .r4
  | 5 => .r5
  | 6 => .r6
  | _ => .r7

/-- The three-bit field of a register (R20, R83). -/
def Reg.toBits : Reg → BitVec 3
  | .r0 => 0
  | .r1 => 1
  | .r2 => 2
  | .r3 => 3
  | .r4 => 4
  | .r5 => 5
  | .r6 => 6
  | .r7 => 7

/-- Why a word is no canonical instruction: the row whose fixed bits (R87) it does not carry. -/
inductive Reject where
  /-- ADD, register form, bits [4:3] not 00. -/
  | add
  /-- AND, register form, bits [4:3] not 00. -/
  | and
  /-- JMP, bits [11:9] or [5:0] not 0. -/
  | jmp
  /-- JSRR, bits [10:9] or [5:0] not 0. -/
  | jsrr
  /-- NOT, bits [5:0] not 111111. -/
  | not
  /-- RTI, bits [11:0] not 0. -/
  | rti
  /-- TRAP, bits [11:8] not 0. -/
  | trap
deriving DecidableEq, Repr

/-- The opcode, bits [15:12] (R81). -/
def opcode (w : Word) : BitVec 4 := w.extractLsb' 12 4

/-- DR of the operate and load rows, SR of the stores: bits [11:9] (R83). -/
def fieldDR (w : Word) : Reg := Reg.ofBits (w.extractLsb' 9 3)

/-- SR1, SR of NOT, BaseR: bits [8:6] (R83). -/
def fieldSR1 (w : Word) : Reg := Reg.ofBits (w.extractLsb' 6 3)

/-- SR2: bits [2:0] (R83). -/
def fieldSR2 (w : Word) : Reg := Reg.ofBits (w.extractLsb' 0 3)

/-- imm5: bits [4:0] (R83). -/
def fieldImm5 (w : Word) : BitVec 5 := w.extractLsb' 0 5

/-- offset6: bits [5:0] (R83). -/
def fieldOffset6 (w : Word) : BitVec 6 := w.extractLsb' 0 6

/-- PCoffset9: bits [8:0] (R83). -/
def fieldPCoffset9 (w : Word) : BitVec 9 := w.extractLsb' 0 9

/-- PCoffset11: bits [10:0] (R83). -/
def fieldPCoffset11 (w : Word) : BitVec 11 := w.extractLsb' 0 11

/-- trapvect8: bits [7:0] (R83). -/
def fieldTrapvect8 (w : Word) : BitVec 8 := w.extractLsb' 0 8

/-- Decoding by opcode, mode bit and named fields alone: the dispatch of R99, and what NONCANONICAL_POLICY = ignore
executes (R89; log 15). A JMP whose BaseR is 111 is named RET (R86, R91). -/
def decodeLoose (w : Word) : Instr :=
  match (opcode w).toNat with
  | 0 => .br (w.getLsbD 11) (w.getLsbD 10) (w.getLsbD 9) (fieldPCoffset9 w)
  | 1 => if w.getLsbD 5 then .addImm (fieldDR w) (fieldSR1 w) (fieldImm5 w)
         else .addReg (fieldDR w) (fieldSR1 w) (fieldSR2 w)
  | 2 => .ld (fieldDR w) (fieldPCoffset9 w)
  | 3 => .st (fieldDR w) (fieldPCoffset9 w)
  | 4 => if w.getLsbD 11 then .jsr (fieldPCoffset11 w) else .jsrr (fieldSR1 w)
  | 5 => if w.getLsbD 5 then .andImm (fieldDR w) (fieldSR1 w) (fieldImm5 w)
         else .andReg (fieldDR w) (fieldSR1 w) (fieldSR2 w)
  | 6 => .ldr (fieldDR w) (fieldSR1 w) (fieldOffset6 w)
  | 7 => .str (fieldDR w) (fieldSR1 w) (fieldOffset6 w)
  | 8 => .rti
  | 9 => .notReg (fieldDR w) (fieldSR1 w)
  | 10 => .ldi (fieldDR w) (fieldPCoffset9 w)
  | 11 => .sti (fieldDR w) (fieldPCoffset9 w)
  | 12 => if fieldSR1 w = .r7 then .ret else .jmp (fieldSR1 w)
  | 13 => .reserved (w.extractLsb' 0 12)
  | 14 => .lea (fieldDR w) (fieldPCoffset9 w)
  | _ => .trap (fieldTrapvect8 w)

/-- The fixed bits of R87 that the word's row shows as constants and the word does not carry (R89); `none` for a
canonical word. Where R90's "xFFFF is TRAP xFF" meets R87 and R89, by which a TRAP word with bits [11:8] other than 0000
is non-canonical, the model follows R87 and R89 (DESIGN CHOICE, log 44): xFFFF is rejected as a TRAP word here, and is
TRAP xFF only under NONCANONICAL_POLICY = ignore. -/
def wrongFixedBits (w : Word) : Option Reject :=
  match (opcode w).toNat with
  | 1 => if !w.getLsbD 5 && w.extractLsb' 3 2 != 0 then some .add else none
  | 4 => if !w.getLsbD 11 && (w.extractLsb' 9 2 != 0 || w.extractLsb' 0 6 != 0) then some .jsrr else none
  | 5 => if !w.getLsbD 5 && w.extractLsb' 3 2 != 0 then some .and else none
  | 8 => if w.extractLsb' 0 12 != 0 then some .rti else none
  | 9 => if w.extractLsb' 0 6 != 0b111111 then some .not else none
  | 12 => if w.extractLsb' 9 3 != 0 || w.extractLsb' 0 6 != 0 then some .jmp else none
  | 15 => if w.extractLsb' 8 4 != 0 then some .trap else none
  | _ => none

/-- Decoding under NONCANONICAL_POLICY = refuse (R89, R99): the canonical words and the reserved opcode have a meaning,
any other word is rejected by the name of its row. -/
def decode (w : Word) : Except Reject Instr :=
  match wrongFixedBits w with
  | some r => .error r
  | none => .ok (decodeLoose w)

/-- The canonical word of an instruction, field by field from Figure A.2 (R82, R87). -/
def encode : Instr → Word
  | .addReg dr sr1 sr2 => 0b0001#4 ++ dr.toBits ++ sr1.toBits ++ 0b000#3 ++ sr2.toBits
  | .addImm dr sr1 imm5 => 0b0001#4 ++ dr.toBits ++ sr1.toBits ++ 0b1#1 ++ imm5
  | .andReg dr sr1 sr2 => 0b0101#4 ++ dr.toBits ++ sr1.toBits ++ 0b000#3 ++ sr2.toBits
  | .andImm dr sr1 imm5 => 0b0101#4 ++ dr.toBits ++ sr1.toBits ++ 0b1#1 ++ imm5
  | .br n z p off => 0b0000#4 ++ BitVec.ofBool n ++ BitVec.ofBool z ++ BitVec.ofBool p ++ off
  | .ret => 0b1100#4 ++ 0b000#3 ++ 0b111#3 ++ 0b000000#6
  | .jmp base => 0b1100#4 ++ 0b000#3 ++ base.toBits ++ 0b000000#6
  | .jsr off => 0b0100#4 ++ 0b1#1 ++ off
  | .jsrr base => 0b0100#4 ++ 0b0#1 ++ 0b00#2 ++ base.toBits ++ 0b000000#6
  | .ld dr off => 0b0010#4 ++ dr.toBits ++ off
  | .ldi dr off => 0b1010#4 ++ dr.toBits ++ off
  | .ldr dr base off => 0b0110#4 ++ dr.toBits ++ base.toBits ++ off
  | .lea dr off => 0b1110#4 ++ dr.toBits ++ off
  | .notReg dr sr => 0b1001#4 ++ dr.toBits ++ sr.toBits ++ 0b111111#6
  | .rti => 0b1000#4 ++ 0b000000000000#12
  | .st sr off => 0b0011#4 ++ sr.toBits ++ off
  | .sti sr off => 0b1011#4 ++ sr.toBits ++ off
  | .str sr base off => 0b0111#4 ++ sr.toBits ++ base.toBits ++ off
  | .trap vect => 0b1111#4 ++ 0b0000#4 ++ vect
  | .reserved bits => 0b1101#4 ++ bits

/-- The instruction the decoder reads from an opcode-table word of `nbits` bits, every bit above them 0. An LC-3
instruction is one word (R80), so only the low sixteen bits are read. -/
def decodeTableWord (nbits w : Nat) : Option Instr :=
  match decode (BitVec.ofNat 16 (w % 2 ^ nbits)) with
  | .ok i => some i
  | .error _ => none

end Sys2Proof
end

