-- ==== Sys2Proof/Config.lean ====
section
/-! DEFINITION. What the spec leaves to the execution environment: the types of its named parameters
(92_eei_decisions.md, "Parameters, collected") and the free values, constants without a body that no proof can evaluate.
The values the parameters have at reset are in Machine/Launch.lean (log 8). -/

namespace Sys2Proof.Config

/-- EXC_PC (D4): which PC an exception pushes. -/
inductive ExcPc where
  | incremented | faulting
deriving DecidableEq, Repr

/-- NONCANONICAL_POLICY (D6): words whose fixed bits differ from Figure A.2. -/
inductive NoncanonicalPolicy where
  | refuse | ignore
deriving DecidableEq, Repr

/-- PSR_STORE_POLICY (D8): a store to xFFFC. -/
inductive PsrStorePolicy where
  | refuse | write
deriving DecidableEq, Repr

/-- UNASSIGNED_IO_POLICY (D9): the 506 device addresses without a register. -/
inductive UnassignedIoPolicy where
  | refuse | anyValue | memory
deriving DecidableEq, Repr

/-- KBD_OVERRUN (D10): a key that arrives while KBSR[15] is 1. -/
inductive KbdOverrun where
  | overwrite | hold
deriving DecidableEq, Repr

/-- DDR_BUSY_STORE (D11): a store to DDR while DSR[15] is 0. -/
inductive DdrBusyStore where
  | refuse | drop | display
deriving DecidableEq, Repr

/-- OS_IMAGE (D15): TRAP through the loaded vector table, or the contracts of Table A.3 in one step each. -/
inductive OsImage where
  | concrete | abstract
deriving DecidableEq, Repr

/-- The parameters of 92_eei_decisions.md a machine is built with. They never change while it runs. The remaining ones
are the launch state (INIT_*, D1: Launch in Machine/Launch.lean) and DEVICES, which is the keyboard alone (D21; log 31). -/
structure Params where
  excPc : ExcPc
  fetchAcv : Bool
  noncanonical : NoncanonicalPolicy
  psrStore : PsrStorePolicy
  unassignedIo : UnassignedIoPolicy
  /-- KBD_IE_BIT, 0 to 14 (D10). -/
  kbdIeBit : Fin 15
  kbdOverrun : KbdOverrun
  ddrBusyStore : DdrBusyStore
  osImage : OsImage
deriving DecidableEq, Repr

/-- The value of the n-th draw where the spec gives a load "an arbitrary 16-bit value" (R63, D9 any-value; log 14). -/
opaque freeWord : Nat → Word

/-- The prompt the n-th draw of the IN contract displays, "an unspecified finite sequence of characters" (R137, U18; log 26). -/
opaque inPrompt : Nat → List Byte

/-- The message the n-th draw of the HALT contract displays (R139, U18; log 26). -/
opaque haltMessage : Nat → List Byte

end Sys2Proof.Config
end

