-- ==== Sys2Proof/Machine/Memory.lean ====
section
/-! DEFINITION. Memory as data: the listed words of the address space in one canonical form. The addressable unit is
the 16-bit word and there is no byte order to introduce (R50, R51, R64 of 20_memory.md; log 7). -/

namespace Sys2Proof.Machine

/-- The listed locations, (address, word), addresses strictly rising, none listed with the word an unlisted one reads. -/
abbrev Memory := List (Nat × Word)

/-- What a location nothing has written reads: x0000. No source gives the launch contents ("locations not loaded are
unspecified", R45, R191), so this is a DESIGN CHOICE, unsafe: it is the start state of 95_test_vectors.md (log 4). -/
def Memory.unlisted (_a : Nat) : Word := 0

/-- `mem[a]`: the word at address a (R51). -/
def Memory.read : Memory → Nat → Word
  | [], a => Memory.unlisted a
  | (b, w) :: m, a => if a = b then w else Memory.read m a

/-- `mem[a] <- v`, keeping the canonical form. -/
def Memory.write : Memory → Nat → Word → Memory
  | [], a, v => if v = Memory.unlisted a then [] else [(a, v)]
  | (b, w) :: m, a, v =>
    if a < b then (if v = Memory.unlisted a then (b, w) :: m else (a, v) :: (b, w) :: m)
    else if a = b then (if v = Memory.unlisted a then m else (a, v) :: m)
    else (b, w) :: Memory.write m a v

/-- The canonical form of the part of memory at `lo` and above: addresses strictly rising and below 2^16 (R50), no
entry equal to what an unlisted address reads. -/
def Memory.wfFrom : Nat → Memory → Bool
  | _, [] => true
  | lo, (a, v) :: m =>
    decide (lo ≤ a) && decide (a < 65536) && decide (v ≠ Memory.unlisted a) && Memory.wfFrom (a + 1) m

/-- The canonical form of memory: equal memories are equal lists. -/
def Memory.wf (m : Memory) : Bool := Memory.wfFrom 0 m

/-- A program image: words at consecutive addresses from its origin (R191, R97 `.ORIG`). R191 loads x0000 to xFDFF and
does not say what an image is that runs past xFDFF or xFFFF: that its words are placed at xFE00 and above, and from xFFFF
on at x0000 and above, is the model's choice (DESIGN CHOICE, unsafe, log 45). -/
def Memory.load : Memory → Word → List Word → Memory
  | m, _, [] => m
  | m, origin, w :: ws => Memory.load (Memory.write m origin.toNat w) (origin + 1) ws

end Sys2Proof.Machine
end

