-- ==== Sys2Proof/Machine/Launch.lean ====
section
/-! DEFINITION. The launch parameters INIT_* (D1 of 92_eei_decisions.md; R190, R191 of 70_reset_and_hazards.md) and the
parameter values the model starts with. No source describes reset (R45), so every value here that is not marked as the
spec's is the model's and has its log entry. -/

namespace Sys2Proof.Machine

/-- Who may make the next move (00_scope.md section 6, Agents). -/
inductive Agent where
  /-- The processor: one instruction or one interrupt initiation (R30). -/
  | processor
  /-- The keyboard: KeyArrives (R171). -/
  | keyboard
  /-- The display: DisplayDone (R174). -/
  | display
deriving DecidableEq, Repr

/-- What a host supplies before the first step (R190 to R192): the INIT_* parameters of D1, the values R45 leaves
unspecified (KBDR, DDR), the keys it will type, an order of moves (log 12) and the parameters. -/
structure Launch where
  pc : Word
  psr : Word
  regs : Regs
  savedSsp : Word
  savedUsp : Word
  mem : Memory
  kbdr : Byte
  ddr : Word
  keys : List Byte
  schedule : List Agent
  params : Config.Params
deriving DecidableEq, Repr

/-- The defaults 92_eei_decisions.md recommends, OS_IMAGE concrete; the vectors of 95_test_vectors.md use them. -/
def Params.specDefaults : Config.Params where
  excPc := .incremented
  fetchAcv := true
  noncanonical := .refuse
  psrStore := .refuse
  unassignedIo := .refuse
  kbdIeBit := 14
  kbdOverrun := .overwrite
  ddrBusyStore := .refuse
  osImage := .concrete

/-- The parameters at reset. Where the spec leaves a choice of which one has an effect, the model takes the effect and
not the refusal the spec recommends, so that an instruction that could be executed is executed (DESIGN CHOICE, unsafe,
log 9); everything else is the spec's default (log 10, 11, 13, 21). -/
def Params.atReset : Config.Params where
  excPc := .incremented
  fetchAcv := true
  noncanonical := .ignore
  psrStore := .write
  unassignedIo := .anyValue
  kbdIeBit := 14
  kbdOverrun := .overwrite
  ddrBusyStore := .display
  osImage := .concrete

/-- All eight registers x0000 (DESIGN CHOICE, unsafe, log 1). -/
def Regs.zero : Regs := ⟨0, 0, 0, 0, 0, 0, 0, 0⟩

/-- The launch the reset state is made from: the profile "bare user program" of R190 (PC = x3000, PSR = x8002; log 2)
with the Saved registers of 95_test_vectors.md section 3 (log 3), zero registers (log 1), nothing loaded (log 4), no key
typed and no order of moves given (log 12, 13). -/
def Launch.bareUserProgram : Launch where
  pc := 0x3000
  psr := 0x8002
  regs := Regs.zero
  savedSsp := 0x3000
  savedUsp := 0xFE00
  mem := []
  kbdr := 0
  ddr := 0
  keys := []
  schedule := []
  params := Params.atReset

/-- The profile "operating system first" of R190: PSR[15] = 0 and the PC at the image's entry point are the spec's, PL0
its recommendation. The rest is the model's choice (DESIGN CHOICE, unsafe, log 39), since R45, R190 and D1 leave it
unspecified: Z is the condition code set (PSR = x0002), R0 to R5 and R7 are x0000, and Saved_SSP = x3000 and
Saved_USP = xFE00 are inherited from the other profile, as are the device values, keys, schedule and parameters. -/
def Launch.operatingSystemFirst (entry ssp : Word) (image : Memory) : Launch :=
  { Launch.bareUserProgram with
    pc := entry, psr := 0x0002, regs := Regs.zero.set .r6 ssp, mem := image }

end Sys2Proof.Machine
end

