-- ==== Sys2Proof/Machine/State.lean ====
section
/-! DEFINITION. The state of the machine as plain data (10_state.md), the reasons a step can stop, and reset. -/

namespace Sys2Proof.Machine

/-- The whole state: what 10_state.md gives the machine, the host's two sequences (R192, R193), and three fields of the
model's own (schedule, params, freeCount). -/
structure State where
  /-- R0 to R7 (R20). -/
  regs : Regs
  /-- "The address of the next instruction to be processed" (R27). -/
  pc : Word
  /-- The processor status register, all sixteen bits (R32, R37). -/
  psr : Word
  /-- The supervisor stack pointer while in User mode (R22). -/
  savedSsp : Word
  /-- The user stack pointer while in Supervisor mode (R22). -/
  savedUsp : Word
  /-- x0000 to xFDFF (R52); under UNASSIGNED_IO_POLICY = memory also the device addresses without a register (R63). -/
  mem : Memory
  /-- The machine control register, all sixteen bits (R39). -/
  mcr : Word
  /-- KBSR[15] (R40). -/
  kbsrReady : Bool
  /-- The interrupt enable bit of KBSR (R40). -/
  kbsrIe : Bool
  /-- The keyboard data register (R41). -/
  kbdr : Word
  /-- DSR[15] (R42). -/
  dsrReady : Bool
  /-- The word last stored to DDR (R43); no load returns it (R176). -/
  ddr : Word
  /-- The characters displayed so far, oldest first (R174, R193). -/
  output : List Byte
  /-- The host's keys not yet delivered, the next one first (R192). -/
  keys : List Byte
  /-- The model's own: the agents whose moves come next (R203; log 12). -/
  schedule : List Agent
  /-- The model's own: the parameters of 92_eei_decisions.md; no step changes them (log 8). -/
  params : Config.Params
  /-- The model's own: how many free values have been drawn (log 14). -/
  freeCount : Nat
deriving DecidableEq, Repr

/-- Why the machine is stuck. -/
inductive Fault where
  /-- Raised by the PUTS and PUTSP contracts (R136, R138, OS_IMAGE abstract) on a string with no word x0000 in the
  whole address space: the contract's loop has no end and no state follows. Safe: the model stops (log 28). -/
  | endlessString
deriving DecidableEq, Repr

/-- Where the model gives no meaning. Each but the first is a "no meaning (refuse)" of the spec. -/
inductive Refusal where
  /-- Raised by an arm of `exec` whose instruction has no meaning yet; no arm is left so. Safe. -/
  | notModelled (mnemonic : String)
  /-- Raised by the fetch under NONCANONICAL_POLICY = refuse on a word whose fixed bits are not those of
  its row, which is named (R89). Safe. -/
  | nonCanonical (row : Reject)
  /-- Raised by the fetch from xFE00 to xFFFF (R61, U11, D22). Safe. -/
  | fetchFromDevice
  /-- Raised by an access to a device address without a register under UNASSIGNED_IO_POLICY = refuse (R63). Safe. -/
  | unassignedIo
  /-- Raised by a store to KBDR, which has "no meaning (refuse)" (R173, U10; log 19). Safe. -/
  | kbdrStore
  /-- Raised by a load from DDR, which has "no meaning (refuse)" (R176, U9; log 19). Safe. -/
  | ddrLoad
  /-- Raised by a store to DDR while DSR[15] = 0 under DDR_BUSY_STORE = refuse (R174). Safe. -/
  | ddrBusy
  /-- Raised by a store to the PSR at xFFFC under PSR_STORE_POLICY = refuse (R178). Safe. -/
  | psrStore
  /-- Raised by a TRAP whose vector is not x20 to x25 under OS_IMAGE abstract (R133, R140). Safe. -/
  | noTrapRoutine
deriving DecidableEq, Repr

/-- The launch state of R190 and R45: the host's parameters, and the values the spec fixes: MCR = x8000, KBSR[15] = 0,
IE = 0, DSR[15] = 1 (D10, D11, D12; log 6). It does not test that the image lies in x0000 to xFDFF (log 45). -/
def State.launch (l : Launch) : State where
  regs := l.regs
  pc := l.pc
  psr := l.psr
  savedSsp := l.savedSsp
  savedUsp := l.savedUsp
  mem := l.mem
  mcr := 0x8000
  kbsrReady := false
  kbsrIe := false
  kbdr := l.kbdr.setWidth 16
  dsrReady := true
  ddr := l.ddr
  output := []
  keys := l.keys
  schedule := l.schedule
  params := l.params
  freeCount := 0

/-- The machine right after reset: the launch of the profile "bare user program" with nothing loaded (log 1 to 6, 34). -/
def State.reset : State := State.launch Launch.bareUserProgram

end Sys2Proof.Machine
end

