-- ==== Sys2Proof/Machine/Access.lean ====
section
/-! DEFINITION. The outcome of an operation, and the reads and updates of single components of the state through which
every operation and every meaning goes. -/

namespace Sys2Proof.Machine

/-- What an operation answers: a value (or a next state), a fault or a refusal. -/
abbrev Result (α : Type) := Host.Outcome α Fault Refusal

/-- Sequencing: "a later statement sees the register values the earlier ones wrote" (R10); a stop ends the step. -/
def andThen {α β : Type} (o : Result α) (k : α → Result β) : Result β :=
  match o with
  | .next a => k a
  | .fault r => .fault r
  | .refused r => .refused r

/-- `R[i]` (R9, R20). -/
def State.reg (s : State) (r : Reg) : Word := s.regs.get r

/-- `R[i] <- v` (R9, R20). -/
def State.setReg (s : State) (r : Reg) (v : Word) : State := { s with regs := s.regs.set r v }

/-- `PC <- v`. -/
def State.setPc (s : State) (v : Word) : State := { s with pc := v }

/-- `PSR <- v`, all sixteen bits. -/
def State.setPsr (s : State) (v : Word) : State := { s with psr := v }

/-- `Saved_SSP <- v`. -/
def State.setSavedSsp (s : State) (v : Word) : State := { s with savedSsp := v }

/-- `Saved_USP <- v`. -/
def State.setSavedUsp (s : State) (v : Word) : State := { s with savedUsp := v }

/-- `mem <- m`. -/
def State.setMem (s : State) (m : Memory) : State := { s with mem := m }

/-- `MCR <- v`, all sixteen bits (R39). -/
def State.setMcr (s : State) (v : Word) : State := { s with mcr := v }

/-- KBSR[15] <- b. -/
def State.setKbsrReady (s : State) (b : Bool) : State := { s with kbsrReady := b }

/-- The IE bit of KBSR <- b. -/
def State.setKbsrIe (s : State) (b : Bool) : State := { s with kbsrIe := b }

/-- A draw of a free value: the counter advances (log 14). -/
def State.draw (s : State) : State := { s with freeCount := s.freeCount + 1 }

/-- The word of plain memory at address a. -/
def State.word (s : State) (a : Word) : Word := s.mem.read a.toNat

/-- PSR[15] = 1: User mode (R33). -/
def State.userMode (s : State) : Bool := s.psr.getLsbD 15

/-- PSR[10:8] (R35). -/
def State.priority (s : State) : BitVec 3 := s.psr.extractLsb' 8 3

/-- N = PSR[2] (R36). -/
def State.flagN (s : State) : Bool := s.psr.getLsbD 2

/-- Z = PSR[1] (R36). -/
def State.flagZ (s : State) : Bool := s.psr.getLsbD 1

/-- P = PSR[0] (R36). -/
def State.flagP (s : State) : Bool := s.psr.getLsbD 0

/-- MCR[15] = 1: instructions are processed (R31). -/
def State.clockEnabled (s : State) : Bool := s.mcr.getLsbD 15

end Sys2Proof.Machine
end

