-- ==== Sys2Proof/Machine/Operands.lean ====
section
/-! DEFINITION. Every operand form: extensions, the second source of ADD and AND, and the address computations
(R6, R7 of 00_scope.md; R84 of 30_encoding.md; R110 of 41_data_movement.md). In an instruction's meaning the PC is the
incremented PC (R27). -/

namespace Sys2Proof.Machine

/-- `sext_16(v)` (R6). -/
def sext16 {w : Nat} (v : BitVec w) : Word := v.signExtend 16

/-- `zext_16(v)` (R7). -/
def zext16 {w : Nat} (v : BitVec w) : Word := v.setWidth 16

/-- `PC + sext_16(PCoffset)` on the incremented PC, modulo 2^16 (R84, R110, R120, R123, R75). -/
def pcRelative {w : Nat} (s : State) (off : BitVec w) : Word := s.pc + sext16 off

/-- `R[BaseR] + sext_16(offset6)`, modulo 2^16 (R110, R75). -/
def baseOffset (s : State) (base : Reg) (off : BitVec 6) : Word := s.reg base + sext16 off

end Sys2Proof.Machine
end

