-- ==== Sys2Proof/Machine/Devices.lean ====
section
/-! DEFINITION. The device registers xFE00 to xFFFF (R62, R63 of 20_memory.md; R171 to R178 of 60_exceptions.md) and the
moves of the keyboard and the display. -/

namespace Sys2Proof.Machine

/-- xFE00 (R62). -/
def kbsrAddr : Word := 0xFE00

/-- xFE02 (R62). -/
def kbdrAddr : Word := 0xFE02

/-- xFE04 (R62). -/
def dsrAddr : Word := 0xFE04

/-- xFE06 (R62). -/
def ddrAddr : Word := 0xFE06

/-- xFFFC (R62). -/
def psrAddr : Word := 0xFFFC

/-- xFFFE; doc01's xFFFF is rejected (R62, C8 of 90_conflicts.md). -/
def mcrAddr : Word := 0xFFFE

/-- "a >= xFE00": the address is of a device register, not of memory (R58, R59). -/
def isDevice (a : Word) : Bool := decide (0xFE00 ≤ a.toNat)

/-- `(KBSR[15] << 15) | (IE << KBD_IE_BIT)`, all other bits 0 (R172). -/
def kbsrWord (s : State) : Word :=
  (if s.kbsrReady then 0x8000 else 0) ||| (if s.kbsrIe then BitVec.twoPow 16 s.params.kbdIeBit.val else 0)

/-- `DSR[15] << 15`, all other bits 0 (R175). -/
def dsrWord (s : State) : Word := if s.dsrReady then 0x8000 else 0

/-- Characters sent to the display: appended to the output stream, and DSR[15] <- 0 (R174; PRESUMED by the spec, K5,
log 21). Sending none changes nothing. -/
def display (s : State) (cs : List Byte) : State :=
  { s with output := s.output ++ cs, dsrReady := s.dsrReady && cs.isEmpty }

/-- A store to DDR: bits [7:0] are displayed (R43, R174, R176); while DSR[15] = 0 DDR_BUSY_STORE decides (D11, log 18). -/
def ddrStore (s : State) (v : Word) : Result State :=
  let shown := display { s with ddr := v } [v.setWidth 8]
  if s.dsrReady then .next shown
  else match s.params.ddrBusyStore with
    | .refuse => .refused .ddrBusy
    | .drop => .next { s with ddr := v }
    | .display => .next shown

/-- A store to the PSR at xFFFC: all sixteen bits under `write`, with no exchange of stack pointers (R178, D8, log 16). -/
def psrStore (s : State) (v : Word) : Result State :=
  match s.params.psrStore with
  | .refuse => .refused .psrStore
  | .write => .next (s.setPsr v)

/-- A load from one of the 506 addresses without a register (R63, D9, log 17). -/
def unassignedRead (s : State) (a : Word) : Result (Word × State) :=
  match s.params.unassignedIo with
  | .refuse => .refused .unassignedIo
  | .anyValue => .next (Config.freeWord s.freeCount, s.draw)
  | .memory => .next (s.word a, s)

/-- A store to one of the 506 addresses without a register (R63, D9, log 17). -/
def unassignedWrite (s : State) (a v : Word) : Result State :=
  match s.params.unassignedIo with
  | .refuse => .refused .unassignedIo
  | .anyValue => .next s
  | .memory => .next (s.setMem (s.mem.write a.toNat v))

/-- `DeviceRead(a)` (R62): a load of KBDR clears KBSR[15] (R173); DDR cannot be loaded (R176, log 19); the others have
no side effect (R172, R175, R177, R178). -/
def deviceRead (s : State) (a : Word) : Result (Word × State) :=
  if a = kbsrAddr then .next (kbsrWord s, s)
  else if a = kbdrAddr then .next (s.kbdr, s.setKbsrReady false)
  else if a = dsrAddr then .next (dsrWord s, s)
  else if a = ddrAddr then .refused .ddrLoad
  else if a = psrAddr then .next (s.psr, s)
  else if a = mcrAddr then .next (s.mcr, s)
  else unassignedRead s a

/-- `DeviceWrite(a, v)` (R62): KBSR takes the IE bit alone (R172); KBDR cannot be stored to (R173, log 19); a store to
DSR has no effect (R175); MCR takes all sixteen bits (R177). -/
def deviceWrite (s : State) (a v : Word) : Result State :=
  if a = kbsrAddr then .next (s.setKbsrIe (v.getLsbD s.params.kbdIeBit.val))
  else if a = kbdrAddr then .refused .kbdrStore
  else if a = dsrAddr then .next s
  else if a = ddrAddr then ddrStore s v
  else if a = psrAddr then psrStore s v
  else if a = mcrAddr then .next (s.setMcr v)
  else unassignedWrite s a v

/-- KeyArrives: the next of the host's keys goes to KBDR and KBSR[15] <- 1 (R171, R192). Under KBD_OVERRUN = hold a key
waits while the ready bit is 1 (log 13). No key, no move. -/
def keyArrives (s : State) : State :=
  match s.keys with
  | [] => s
  | c :: rest =>
    if s.kbsrReady && s.params.kbdOverrun == .hold then s
    else { s with kbdr := zext16 c, kbsrReady := true, keys := rest }

/-- DisplayDone: DSR[15] <- 1 (R174). -/
def displayDone (s : State) : State := { s with dsrReady := true }

end Sys2Proof.Machine
end

