-- ==== Sys2Proof/Machine/Flags.lean ====
section
/-! DEFINITION. The fields of the processor status register as they are written: the condition codes, the priority and
the mode (R32 to R38 of 10_state.md). Every write of one field keeps all other bits, the undefined ones too (R37). -/

namespace Sys2Proof.Machine

/-- The condition codes N, Z, P of a value read as a 16-bit 2's complement integer (R34). -/
def ccOf (v : Word) : BitVec 3 :=
  if v.msb then 0b100 else if v = 0 then 0b010 else 0b001

/-- PSR with PSR[2:0] replaced. -/
def Psr.withCC (p : Word) (cc : BitVec 3) : Word := p.extractLsb' 3 13 ++ cc

/-- PSR with PSR[10:8] replaced (R35). -/
def Psr.withPriority (p : Word) (level : BitVec 3) : Word := p.extractLsb' 11 5 ++ level ++ p.extractLsb' 0 8

/-- PSR with PSR[15] <- 0: Supervisor mode (R33). -/
def Psr.supervisor (p : Word) : Word := 0#1 ++ p.extractLsb' 0 15

/-- `setcc(v)`: "changes PSR[2:0] only" (R34). -/
def State.setcc (s : State) (v : Word) : State := s.setPsr (Psr.withCC s.psr (ccOf v))

end Sys2Proof.Machine
end

