-- ==== Sys2Proof/Machine/Ops.lean ====
section
/-! DEFINITION. The named operations over memory and registers, taking an exception or an interrupt, and the return
from one (R55 to R61 of 20_memory.md; R22 to R24 of 10_state.md; R130, R131 of 43_system.md; R150 to R164 of
60_exceptions.md). -/

namespace Sys2Proof.Machine

/-- `privileged(a)`: a <= x2FFF or a >= xFE00 (R55). -/
def privileged (a : Word) : Bool := decide (a.toNat ≤ 0x2FFF) || decide (0xFE00 ≤ a.toNat)

/-- The ACV test: PSR[15] = 1 and privileged(a) (R56, R57). -/
def accessViolation (s : State) (a : Word) : Bool := s.userMode && privileged a

/-- `MemRead(a, 1)`: no privilege test (R58). -/
def memRead (s : State) (a : Word) : Result (Word × State) :=
  if isDevice a then deviceRead s a else .next (s.word a, s)

/-- `MemWrite(a, 1, v)`: no privilege test (R59). -/
def memWrite (s : State) (a v : Word) : Result State :=
  if isDevice a then deviceWrite s a v else .next (s.setMem (s.mem.write a.toNat v))

/-- `Push(v)`: R6 - 1, then the write (R152; the address wraps, R75; unchecked, log 24). -/
def push (s : State) (v : Word) : Result State :=
  memWrite (s.setReg .r6 (s.reg .r6 - 1)) (s.reg .r6 - 1) v

/-- `Pop()`: the read at R6, then R6 + 1 (R153). -/
def pop (s : State) : Result (Word × State) :=
  andThen (memRead s (s.reg .r6)) fun p => .next (p.1, p.2.setReg .r6 (p.2.reg .r6 + 1))

/-- The switch to the supervisor stack: Saved_USP <- R6; R6 <- Saved_SSP (R23). -/
def toSupervisorStack (s : State) : State :=
  (s.setSavedUsp (s.reg .r6)).setReg .r6 s.savedSsp

/-- The switch to the user stack: Saved_SSP <- R6; R6 <- Saved_USP (R24). -/
def toUserStack (s : State) : State :=
  (s.setSavedSsp (s.reg .r6)).setReg .r6 s.savedUsp

/-- What TRAP and `Initiate` begin with, on the old PSR: Supervisor mode, and the supervisor stack if the process was in
User mode (R130, R154). PSR[15] <- 0 changes nothing when it is 0 already (R130). -/
def enterSupervisor (s : State) : State :=
  let s' := s.setPsr (Psr.supervisor s.psr)
  if s.userMode then toSupervisorStack s' else s'

/-- What TRAP and `Initiate` end with: `temp` and then the PC pushed, then the PC loaded from the table entry (R130,
R154; the PC lies at the lower address, D17). -/
def pushAndVector (s : State) (temp entry : Word) : Result State :=
  andThen (push s temp) fun s1 =>
  andThen (push s1 s1.pc) fun s2 =>
  andThen (memRead s2 entry) fun p => .next (p.2.setPc p.1)

/-- The priority an interrupt raises PSR[10:8] to; `none` is the `unchanged` of an exception (R154, R160). -/
def State.raisePriority (s : State) (level : Option (BitVec 3)) : State :=
  match level with
  | none => s
  | some l => s.setPsr (Psr.withPriority s.psr l)

/-- `Initiate(vec, x0100, newprio)`: the entry sequence of interrupts and exceptions (R154). The word pushed as PSR is
the PSR of the interrupted process; the PC pushed is the state's. -/
def initiate (vec : Byte) (level : Option (BitVec 3)) (s : State) : Result State :=
  pushAndVector ((enterSupervisor s).raisePriority level) s.psr (0x0100 + zext16 vec)

/-- The three exceptions (R155). -/
inductive Cause where
  /-- RTI in User mode (R156). -/
  | privilegeModeViolation
  /-- Opcode 1101 (R157). -/
  | illegalOpcode
  /-- Access control violation (R158). -/
  | acv
deriving DecidableEq, Repr

/-- The vectors x00, x01, x02 (R155). -/
def Cause.vector : Cause → Byte
  | .privilegeModeViolation => 0x00
  | .illegalOpcode => 0x01
  | .acv => 0x02

/-- The PC an exception pushes, from the incremented PC: A + 1, or A under EXC_PC = faulting (R159, D4, log 10). -/
def exceptionPc (s : State) : Word :=
  match s.params.excPc with
  | .incremented => s.pc
  | .faulting => s.pc - 1

/-- `raise`: TAKING AN EXCEPTION, in place of the rest of the instruction (R9, R156 to R160). The priority level stays. -/
def raise (c : Cause) (s : State) : Result State :=
  initiate c.vector none (s.setPc (exceptionPc s))

/-- RETURNING: the body of RTI in Supervisor mode. PC and then the whole PSR popped, both increments of R6 before the new
PSR is examined, then the user stack if PSR[15] = 1 (R131). -/
def returnFromSupervisor (s : State) : Result State :=
  andThen (pop s) fun p =>
  andThen (pop (p.2.setPc p.1)) fun q =>
  let s' := q.2.setPsr q.1
  .next (if s'.userMode then toUserStack s' else s')

/-- `CheckedRead(a)` and what follows it: the test comes first, and when it fails no read happens (R56). -/
def checkedRead (s : State) (a : Word) (k : Word → State → Result State) : Result State :=
  if accessViolation s a then raise .acv s else andThen (memRead s a) fun p => k p.1 p.2

/-- `CheckedWrite(a, v)`: when the test fails nothing is written (R57). -/
def checkedWrite (s : State) (a v : Word) : Result State :=
  if accessViolation s a then raise .acv s else memWrite s a v

/-- `R[DR] <- v; setcc(v)`: how the operate instructions and the loads end (R100, R111). -/
def writeResult (s : State) (dr : Reg) (v : Word) : State := (s.setReg dr v).setcc v

/-- The condition for the keyboard's interrupt: it wants service, IE is set, and PL4 is above the running level (R163).
It interrupts alone (R162, log 31). -/
def interruptCondition (s : State) : Bool :=
  s.kbsrReady && s.kbsrIe && decide (s.priority.toNat < 4)

/-- `InitiateInterrupt()`: vector x80 at PL4; the PC pushed is the next instruction's, not yet incremented (R164). -/
def initiateInterrupt (s : State) : Result State := initiate 0x80 (some 4) s

end Sys2Proof.Machine
end

