-- ==== Sys2Proof/Machine/Control.lean ====
section
/-! DEFINITION. The control instructions BR, JMP, RET, JSR, JSRR (42_control.md). The PC read is the incremented PC. -/

namespace Sys2Proof.Machine

/-- "If any of the condition codes tested is 1" (R120), on whatever the three bits are (R38). -/
def branchTaken (s : State) (n z p : Bool) : Bool :=
  (n && s.flagN) || (z && s.flagZ) || (p && s.flagP)

/-- `TEMP <- PC; PC <- target; R[7] <- TEMP` (R123, R124): the target was read before R7 is written. -/
def linkAndJump (s : State) (target : Word) : State := (s.setPc target).setReg .r7 s.pc

/-- BR (R120). -/
def execBr (n z p : Bool) (off : BitVec 9) (s : State) : Result State :=
  .next (if branchTaken s n z p then s.setPc (pcRelative s off) else s)

/-- JMP (R121). -/
def execJmp (base : Reg) (s : State) : Result State := .next (s.setPc (s.reg base))

/-- RET: JMP R7 (R122). -/
def execRet (s : State) : Result State := .next (s.setPc (s.reg .r7))

/-- JSR (R123). -/
def execJsr (off : BitVec 11) (s : State) : Result State := .next (linkAndJump s (pcRelative s off))

/-- JSRR; `JSRR R7` jumps to the old R7 (R124, C9 of 90_conflicts.md). -/
def execJsrr (base : Reg) (s : State) : Result State := .next (linkAndJump s (s.reg base))

end Sys2Proof.Machine
end

