-- ==== Sys2Proof/Machine/DataMovement.lean ====
section
/-! DEFINITION. The data movement instructions LD, LDI, LDR, LEA, ST, STI, STR (41_data_movement.md). -/

namespace Sys2Proof.Machine

/-- LD (R111). -/
def execLd (dr : Reg) (off : BitVec 9) (s : State) : Result State :=
  checkedRead s (pcRelative s off) fun v s1 => .next (writeResult s1 dr v)

/-- LDI: test the pointer's address, read it, test the second address, read it (R112, D18, log 35). -/
def execLdi (dr : Reg) (off : BitVec 9) (s : State) : Result State :=
  checkedRead s (pcRelative s off) fun a2 s1 =>
  checkedRead s1 a2 fun v s2 => .next (writeResult s2 dr v)

/-- LDR (R113). -/
def execLdr (dr base : Reg) (off : BitVec 6) (s : State) : Result State :=
  checkedRead s (baseOffset s base off) fun v s1 => .next (writeResult s1 dr v)

/-- LEA: no memory access, no test, the condition codes unchanged (R114, C1 of 90_conflicts.md). -/
def execLea (dr : Reg) (off : BitVec 9) (s : State) : Result State :=
  .next (s.setReg dr (pcRelative s off))

/-- ST (R115). -/
def execSt (sr : Reg) (off : BitVec 9) (s : State) : Result State :=
  checkedWrite s (pcRelative s off) (s.reg sr)

/-- STI: the pointer is read, the second access is the write (R116, D18, log 35). -/
def execSti (sr : Reg) (off : BitVec 9) (s : State) : Result State :=
  checkedRead s (pcRelative s off) fun a2 s1 => checkedWrite s1 a2 (s1.reg sr)

/-- STR (R117). -/
def execStr (sr base : Reg) (off : BitVec 6) (s : State) : Result State :=
  checkedWrite s (baseOffset s base off) (s.reg sr)

end Sys2Proof.Machine
end

