-- ==== Sys2Proof/Machine/Operate.lean ====
section
/-! DEFINITION. The operate instructions ADD, AND, NOT (40_operate.md). Sources are read before DR is written (R100);
no exception, no memory, no privilege test. -/

namespace Sys2Proof.Machine

/-- ADD, register form (R101). -/
def execAddReg (dr sr1 sr2 : Reg) (s : State) : Result State :=
  .next (writeResult s dr (s.reg sr1 + s.reg sr2))

/-- ADD, immediate form (R101). -/
def execAddImm (dr sr1 : Reg) (imm5 : BitVec 5) (s : State) : Result State :=
  .next (writeResult s dr (s.reg sr1 + sext16 imm5))

/-- AND, register form (R102). -/
def execAndReg (dr sr1 sr2 : Reg) (s : State) : Result State :=
  .next (writeResult s dr (s.reg sr1 &&& s.reg sr2))

/-- AND, immediate form; the immediate is sign-extended (R102). -/
def execAndImm (dr sr1 : Reg) (imm5 : BitVec 5) (s : State) : Result State :=
  .next (writeResult s dr (s.reg sr1 &&& sext16 imm5))

/-- NOT (R103). -/
def execNot (dr sr : Reg) (s : State) : Result State :=
  .next (writeResult s dr (~~~(s.reg sr)))

end Sys2Proof.Machine
end

