-- ==== Sys2Proof/Machine/TrapRoutines.lean ====
section
/-! DEFINITION. The contracts of the six trap service routines x20 to x25 (R133 to R140 of 43_system.md, Table A.3), each
one indivisible step, for OS_IMAGE abstract (D15, log 25). R1 to R7, PSR, the Saved registers and memory are unchanged
and the PC is the address after the TRAP, which is the incremented PC. -/

namespace Sys2Proof.Machine

/-- The routine waits: the TRAP is executed again at the processor's next move (log 25). -/
def waitAtTrap (s : State) : State := s.setPc (s.pc - 1)

/-- Characters written to DDR one after another (R135, R136, R138; log 29). -/
def displayString (s : State) (cs : List Byte) : State :=
  match cs.getLast? with
  | none => s
  | some c => display { s with ddr := zext16 c } cs

/-- The character in KBDR is consumed: KBSR[15] <- 0, R0[7:0] = the character, R0[15:8] = 0 (R134). -/
def consumeKey (s : State) : State :=
  (s.setKbsrReady false).setReg .r0 (zext16 (s.kbdr.extractLsb' 0 8))

/-- TRAP x20, GETC (R134). -/
def routineGetc (s : State) : Result State :=
  .next (if s.kbsrReady then consumeKey s else waitAtTrap s)

/-- TRAP x21, OUT: R0[7:0] to the display, R0 unchanged (R135). -/
def routineOut (s : State) : Result State :=
  .next (if s.dsrReady then displayString s [(s.reg .r0).extractLsb' 0 8] else waitAtTrap s)

/-- The words of a string from address a up to the first word x0000, read in Supervisor mode (R136, R138): no access is
tested. With no such word among the next `fuel` the loop does not end (log 28). What a string that runs through device
registers reads at xFFFC and xFE04 is the model's choice (DESIGN CHOICE, log 43): the caller's PSR, bit 15 as the caller
has it, and DSR as it is before any character is displayed. -/
def stringWords : Nat → Word → State → Result (List Word × State)
  | 0, _, _ => .fault .endlessString
  | fuel + 1, a, s =>
    andThen (memRead s a) fun p =>
      if p.1 = 0 then .next ([], p.2)
      else andThen (stringWords fuel (a + 1) p.2) fun q => .next (p.1 :: q.1, q.2)

/-- The number of locations (R50): a string that has not ended after so many words never does. -/
def stringFuel : Nat := 65536

/-- PUTS displays bits [7:0] of each word (R136). -/
def putsChars (ws : List Word) : List Byte := ws.map fun w => w.extractLsb' 0 8

/-- PUTSP displays bits [7:0] and then bits [15:8] of each word, the latter not when they are x00 (R138; U8, log 27). -/
def putspChars (ws : List Word) : List Byte :=
  ws.flatMap fun w => w.extractLsb' 0 8 :: (if w.extractLsb' 8 8 = 0 then [] else [w.extractLsb' 8 8])

/-- PUTS and PUTSP: once the display is ready, the string at R0 is read and its characters displayed (log 29). That an
empty string too waits for DSR[15] = 1, though it displays nothing, is the model's choice (DESIGN CHOICE, log 42). -/
def writeString (chars : List Word → List Byte) (s : State) : Result State :=
  if s.dsrReady then
    andThen (stringWords stringFuel (s.reg .r0) s) fun p => .next (displayString p.2 (chars p.1))
  else .next (waitAtTrap s)

/-- TRAP x22, PUTS (R136). -/
def routinePuts (s : State) : Result State := writeString putsChars s

/-- TRAP x23, IN: a prompt whose text is free, then GETC, then the echo of the character read (R137, U18, log 26). That
the prompt is displayed only in the step that takes the key, so that with no key in KBDR no prompt is displayed, is the
model's choice (DESIGN CHOICE, log 41): the routine is one step (D15). -/
def routineIn (s : State) : Result State :=
  .next (if s.kbsrReady && s.dsrReady then
      displayString (consumeKey s.draw) (Config.inPrompt s.freeCount ++ [s.kbdr.extractLsb' 0 8])
    else waitAtTrap s)

/-- TRAP x24, PUTSP (R138). -/
def routinePutsp (s : State) : Result State := writeString putspChars s

/-- TRAP x25, HALT: a message whose text is free, MCR[15] <- 0, "all other state as before the TRAP" (R139, K6, log 26). -/
def routineHalt (s : State) : Result State :=
  .next (if s.dsrReady then
      { s.draw with output := s.output ++ Config.haltMessage s.freeCount, mcr := 0#1 ++ s.mcr.extractLsb' 0 15 }
    else waitAtTrap s)

/-- TRAP under OS_IMAGE abstract: the contract of its vector; any other vector is refused (R133, R140). -/
def trapContract (vect : BitVec 8) (s : State) : Result State :=
  match vect.toNat with
  | 0x20 => routineGetc s
  | 0x21 => routineOut s
  | 0x22 => routinePuts s
  | 0x23 => routineIn s
  | 0x24 => routinePutsp s
  | 0x25 => routineHalt s
  | _ => .refused .noTrapRoutine

end Sys2Proof.Machine
end

