-- ==== Sys2Proof/Machine/System.lean ====
section
/-! DEFINITION. The system instructions TRAP, RTI and the reserved opcode (43_system.md). -/

namespace Sys2Proof.Machine

/-- TRAP through the trap vector table: PSR and PC pushed on the supervisor stack, PC from mem[zext_16(trapvect8)];
R7, the priority and the condition codes unchanged (R130, R141). -/
def trapThroughTable (vect : BitVec 8) (s : State) : Result State :=
  pushAndVector (enterSupervisor s) s.psr (zext16 vect)

/-- TRAP: the hardware's rule R130, or under OS_IMAGE abstract the routine's contract (R133, D15). -/
def execTrap (vect : BitVec 8) (s : State) : Result State :=
  match s.params.osImage with
  | .concrete => trapThroughTable vect s
  | .abstract => trapContract vect s

/-- RTI: in User mode the privilege mode violation with nothing popped, else the return (R131). -/
def execRti (s : State) : Result State :=
  if s.userMode then raise .privilegeModeViolation s else returnFromSupervisor s

/-- The reserved opcode 1101: the illegal opcode exception in both modes; bits [11:0] are not examined (R132, R88). -/
def execReserved (_bits : BitVec 12) (s : State) : Result State := raise .illegalOpcode s

end Sys2Proof.Machine
end

