-- ==== Sys2Proof/Machine/Cycle.lean ====
section
/-! DEFINITION. The instruction cycle (R30 of 10_state.md), the fetch (R61 of 20_memory.md) and whose move comes next
(R171, R174, R203; log 12). Step.lean only calls what is here. -/

namespace Sys2Proof.Machine

/-- What `Execute(IR)` decodes (R99): under NONCANONICAL_POLICY = refuse a word whose fixed bits are wrong has no
meaning; under ignore the fixed bits are not looked at (R89, log 15). -/
def decodeUnder (policy : Config.NoncanonicalPolicy) (w : Word) : Except Reject Instr :=
  match policy with
  | .refuse => decode w
  | .ignore => .ok (decodeLoose w)

/-- The fetch from address A may raise ACV: FETCH_ACV, User mode, privileged(A) (R30, R61, D5, log 11). -/
def fetchViolation (s : State) (a : Word) : Bool := s.params.fetchAcv && accessViolation s a

/-- Decode and execute a fetched word on the state whose PC is already incremented (R30, R99). -/
def executeWord (w : Word) (s : State) : Result State :=
  match decodeUnder s.params.noncanonical w with
  | .ok i => exec i s
  | .error row => .refused (.nonCanonical row)

/-- Fetch, increment, decode and execute (R30). A fetch from a device address has no meaning (R61, D22, log 20). -/
def fetchAndExecute (s : State) : Result State :=
  if fetchViolation s s.pc then raise .acv (s.setPc (s.pc + 1))
  else if isDevice s.pc then .refused .fetchFromDevice
  else executeWord (s.word s.pc) (s.setPc (s.pc + 1))

/-- One move of the processor (R30): nothing while MCR[15] = 0 (R31, log 30), else the interrupt whose condition holds
(R163, R165), else one instruction. -/
def processorStep (s : State) : Result State :=
  if s.clockEnabled then
    if interruptCondition s then initiateInterrupt s else fetchAndExecute s
  else .next s

/-- Whose move comes next: the head of the schedule; when it is exhausted the display if it is busy ("the display
becomes ready after finitely many steps", R203), then the keyboard if a key waits and KBSR[15] = 0, then the processor
(log 12). -/
def turn (s : State) : Agent :=
  match s.schedule with
  | a :: _ => a
  | [] =>
    if !s.dsrReady then .display
    else if !s.keys.isEmpty && !s.kbsrReady then .keyboard
    else .processor

/-- The move is taken off the schedule. -/
def takeTurn (s : State) : State := { s with schedule := s.schedule.tail }

/-- One move of the agent whose turn it is. -/
def move (s : State) : Result State :=
  match turn s with
  | .processor => processorStep (takeTurn s)
  | .keyboard => .next (keyArrives (takeTurn s))
  | .display => .next (displayDone (takeTurn s))

/-- A word placed where the next instruction is fetched, and the processor's move next (log 34). -/
def placeNext (s : State) (w : Word) : State :=
  { s with mem := s.mem.write s.pc.toNat w, schedule := .processor :: s.schedule }

end Sys2Proof.Machine
end

