-- ==== Sys2Proof/Machine/Step.lean ====
section
/-! DEFINITION. One step of the machine, and the placing of an instruction where the next step fetches it. -/

namespace Sys2Proof.Machine

/-- One step: one move of the processor, the keyboard or the display (R30; R171, R174; log 12). -/
def step (s : State) : Host.Outcome State Fault Refusal := move s

/-- The state with the instruction of `nbits` bits stored at the PC, higher bits 0, and the processor's move next: the
host's loading of R191 for one word (log 34). -/
def State.withFetchWord (s : State) (nbits w : Nat) : State := placeNext s (BitVec.ofNat 16 (w % 2 ^ nbits))

end Sys2Proof.Machine
end

