-- ==== Sys2Proof/Machine/Assembly.lean ====
section
/-! DEFINITION. The assembler's language as far as the spec gives it (R92 to R98 of 30_encoding.md): statements with
their operands read and their labels resolved to addresses, the range checks, the aliases, the directives and the number
literals. The assembler as a program (tokens, symbol table, object file) is out of scope (00_scope.md section 4; log 36). -/

namespace Sys2Proof.Machine

/-- A number as written: decimal, or a hexadecimal or binary pattern (R93). -/
inductive Literal where
  | decimal (v : Int)
  | pattern (v : Nat)
deriving DecidableEq, Repr

/-- The digit a character writes in the bases of R93 (16, 10 and 2): the number below the base whose digit it is. A
hexadecimal digit may be written in either case (log 36). -/
def digitValue (base : Nat) (c : Char) : Option Nat :=
  (List.range base).find? fun d => Nat.digitChar d == c.toLower

/-- Digits read from the left, `acc` being the value so far. -/
def digitsValue (base : Nat) : Nat → List Char → Option Nat
  | acc, [] => some acc
  | acc, c :: cs => (digitValue base c).bind fun d => digitsValue base (acc * base + d) cs

/-- A non-empty sequence of digits. -/
def numeral (base : Nat) : List Char → Option Nat
  | [] => none
  | c :: cs => digitsValue base 0 (c :: cs)

/-- `xNumber`, `#Number` (a minus sign may follow the #), `bNumber` (R93). -/
def parseLiteral : List Char → Option Literal
  | 'x' :: ds => (numeral 16 ds).map .pattern
  | 'b' :: ds => (numeral 2 ds).map .pattern
  | '#' :: '-' :: ds => (numeral 10 ds).map fun n => .decimal (-(n : Int))
  | '#' :: ds => (numeral 10 ds).map fun n => .decimal n
  | _ => none

/-- The number a literal writes. -/
def Literal.value : Literal → Int
  | .decimal v => v
  | .pattern v => v

/-- A signed field of w bits, rejected out of its range and never truncated (R84, R98). -/
def signedField (w : Nat) (v : Int) : Option (BitVec w) :=
  if -(2 ^ (w - 1) : Int) ≤ v ∧ v < (2 ^ (w - 1) : Int) then some (BitVec.ofInt w v) else none

/-- imm5: a decimal in -16..15; "a hexadecimal or binary literal is taken as the 5-bit pattern" (R98). -/
def immediateField : Literal → Option (BitVec 5)
  | .decimal v => signedField 5 v
  | .pattern v => if v < 32 then some (BitVec.ofNat 5 v) else none

/-- trapvect8 in 0..255 (R98). -/
def vectorField (l : Literal) : Option (BitVec 8) :=
  if 0 ≤ l.value ∧ l.value < 256 then some (BitVec.ofInt 8 l.value) else none

/-- `offset = address(LABEL) - (address of the instruction + 1)` (R94), rejected when it does not fit (R98). -/
def labelField (w : Nat) (at_ label : Word) : Option (BitVec w) := signedField w (label - (at_ + 1)).toInt

/-- The eight spellings of BR (R95). -/
inductive BrForm where
  | n | z | p | zp | np | nz | nzp | plain
deriving DecidableEq, Repr

/-- The bits [11], [10], [9] a spelling sets; "BR is interpreted the same as BRnzp" (R95, R96). -/
def BrForm.bits : BrForm → Bool × Bool × Bool
  | .n => (true, false, false)
  | .z => (false, true, false)
  | .p => (false, false, true)
  | .zp => (false, true, true)
  | .np => (true, false, true)
  | .nz => (true, true, false)
  | .nzp => (true, true, true)
  | .plain => (true, true, true)

/-- The six assembler names of Table A.3 (R96). -/
inductive Service where
  | getc | out | puts | inn | putsp | halt
deriving DecidableEq, Repr

/-- The trap vector of a service (R96). -/
def Service.vector : Service → BitVec 8
  | .getc => 0x20
  | .out => 0x21
  | .puts => 0x22
  | .inn => 0x23
  | .putsp => 0x24
  | .halt => 0x25

/-- An instruction as the assembler's formats write it (R92), labels given by their addresses. -/
inductive AsmInstr where
  | addReg (dr sr1 sr2 : Reg)
  | addImm (dr sr1 : Reg) (imm : Literal)
  | andReg (dr sr1 sr2 : Reg)
  | andImm (dr sr1 : Reg) (imm : Literal)
  | br (form : BrForm) (label : Word)
  | jmp (base : Reg)
  | ret
  | jsr (label : Word)
  | jsrr (base : Reg)
  | ld (dr : Reg) (label : Word)
  | ldi (dr : Reg) (label : Word)
  | ldr (dr base : Reg) (off : Literal)
  | lea (dr : Reg) (label : Word)
  | notReg (dr sr : Reg)
  | rti
  | st (sr : Reg) (label : Word)
  | sti (sr : Reg) (label : Word)
  | str (sr base : Reg) (off : Literal)
  | trap (vect : Literal)
  | service (name : Service)
deriving DecidableEq, Repr

/-- The instruction a line at address `at_` stands for, or none where an operand does not fit its field (R92 to R98).
`JMP R7` is written as RET's word (R91). -/
def assembleInstr (at_ : Word) : AsmInstr → Option Instr
  | .addReg dr sr1 sr2 => some (.addReg dr sr1 sr2)
  | .addImm dr sr1 imm => (immediateField imm).map (.addImm dr sr1)
  | .andReg dr sr1 sr2 => some (.andReg dr sr1 sr2)
  | .andImm dr sr1 imm => (immediateField imm).map (.andImm dr sr1)
  | .br form label => (labelField 9 at_ label).map (.br form.bits.1 form.bits.2.1 form.bits.2.2)
  | .jmp base => some (if base = .r7 then .ret else .jmp base)
  | .ret => some .ret
  | .jsr label => (labelField 11 at_ label).map .jsr
  | .jsrr base => some (.jsrr base)
  | .ld dr label => (labelField 9 at_ label).map (.ld dr)
  | .ldi dr label => (labelField 9 at_ label).map (.ldi dr)
  | .ldr dr base off => (signedField 6 off.value).map (.ldr dr base)
  | .lea dr label => (labelField 9 at_ label).map (.lea dr)
  | .notReg dr sr => some (.notReg dr sr)
  | .rti => some .rti
  | .st sr label => (labelField 9 at_ label).map (.st sr)
  | .sti sr label => (labelField 9 at_ label).map (.sti sr)
  | .str sr base off => (signedField 6 off.value).map (.str sr base)
  | .trap vect => (vectorField vect).map .trap
  | .service name => some (.trap name.vector)

/-- A line of a source text: an instruction or a directive (R97). -/
inductive Line where
  | instr (i : AsmInstr)
  | orig (a : Word)
  | fill (v : Literal)
  | fillLabel (label : Word)
  | blkw (n : Nat)
  | stringz (cs : List Byte)
  | endText
deriving DecidableEq, Repr

/-- The word `.FILL` emits (R97). Which literals it takes is the model's choice (DESIGN CHOICE, log 40): the values from
-32768 to 65535, those that fit sixteen bits signed or unsigned, and every other is rejected. -/
def fillWord (l : Literal) : Option Word :=
  if -32768 ≤ l.value ∧ l.value < 65536 then some (BitVec.ofInt 16 l.value) else none

/-- Words at consecutive addresses from `loc`, wrapping after xFFFF (the model's choice, log 45). -/
def placeWords (loc : Word) : List Word → List (Word × Word)
  | [] => []
  | w :: ws => (loc, w) :: placeWords (loc + 1) ws

/-- The words of `.STRINGZ`: one per character, high byte zero, then x0000 (R97). -/
def stringzWords (cs : List Byte) : List Word := cs.map zext16 ++ [0]

/-- The image of a source text, (address, word) in order of emission: `.ORIG` sets the next address, `.BLKW` reserves
words and emits none (their contents are unspecified, U16), `.END` ends the text (R97). The address of the next word
wraps after xFFFF and is not held below xFE00 (the model's choice, log 45). -/
def assemble : Word → List Line → Option (List (Word × Word))
  | _, [] => some []
  | loc, .instr i :: rest =>
    (assembleInstr loc i).bind fun j => (assemble (loc + 1) rest).map fun ws => (loc, encode j) :: ws
  | _, .orig a :: rest => assemble a rest
  | loc, .fill v :: rest => (fillWord v).bind fun w => (assemble (loc + 1) rest).map fun ws => (loc, w) :: ws
  | loc, .fillLabel a :: rest => (assemble (loc + 1) rest).map fun ws => (loc, a) :: ws
  | loc, .blkw n :: rest => assemble (loc + BitVec.ofNat 16 n) rest
  | loc, .stringz cs :: rest =>
    (assemble (loc + BitVec.ofNat 16 (cs.length + 1)) rest).map fun ws => placeWords loc (stringzWords cs) ++ ws
  | _, .endText :: _ => some []

end Sys2Proof.Machine
end

