-- ==== Sys2Proof/Safety.lean ====
section
/-! DEFINITION. The terms the statements are written in: the machine's invariant, what a step leaves unchanged, what a
written register, an entry into Supervisor mode and a user process's view are. -/

namespace Sys2Proof.Machine

/-- The six device addresses that have a register (R62 of 20_memory.md). -/
def deviceRegisters : List Nat := [0xFE00, 0xFE02, 0xFE04, 0xFE06, 0xFFFC, 0xFFFE]

/-- Where a word of memory may be listed: x0000 to xFDFF (R52), and under UNASSIGNED_IO_POLICY = memory the device
addresses without a register (R63). -/
def mayHold (p : Config.Params) (a : Nat) : Bool :=
  decide (a < 0xFE00) || (decide (p.unassignedIo = .memory) && !deviceRegisters.contains a)

/-- The invariant every step keeps: memory in canonical form, nothing stored behind a device register, KBDR[15:8] = 0
(R41). -/
def State.Inv (s : State) : Prop :=
  s.mem.wf = true ∧ (∀ c ∈ s.mem, mayHold s.params c.1 = true) ∧ s.kbdr.toNat < 256

/-- Every location of memory reads as before. -/
def SameMemory (s t : State) : Prop := ∀ a : Word, t.word a = s.word a

/-- Saved_SSP and Saved_USP as before. -/
def SameSaved (s t : State) : Prop := t.savedSsp = s.savedSsp ∧ t.savedUsp = s.savedUsp

/-- MCR, KBSR, KBDR, DSR, DDR and the output stream as before. -/
def SameDevices (s t : State) : Prop :=
  t.mcr = s.mcr ∧ t.kbsrReady = s.kbsrReady ∧ t.kbsrIe = s.kbsrIe ∧ t.kbdr = s.kbdr ∧
  t.dsrReady = s.dsrReady ∧ t.ddr = s.ddr ∧ t.output = s.output

/-- The keys, the schedule, the parameters and the free-value counter as before. -/
def SameHost (s t : State) : Prop :=
  t.keys = s.keys ∧ t.schedule = s.schedule ∧ t.params = s.params ∧ t.freeCount = s.freeCount

/-- Everything but the registers, the PC, the PSR and memory as before. -/
def SameRest (s t : State) : Prop := SameSaved s t ∧ SameDevices s t ∧ SameHost s t

/-- Every register but r as before. -/
def SameRegsBut (r : Reg) (s t : State) : Prop := ∀ q : Reg, q ≠ r → t.reg q = s.reg q

/-- PSR[15:3] as before. -/
def SamePsrAboveCodes (s t : State) : Prop := ∀ b : Nat, 3 ≤ b → t.psr.getLsbD b = s.psr.getLsbD b

/-- N, Z, P say that v, read as a 16-bit 2's complement integer, is negative, zero, positive (R34). -/
def CodesOf (t : State) (v : Word) : Prop :=
  (t.flagN = true ↔ v.toInt < 0) ∧ (t.flagZ = true ↔ v.toInt = 0) ∧ (t.flagP = true ↔ 0 < v.toInt)

/-- An operate instruction or a load ended: DR holds v, the codes are v's, and nothing else changed (R100, R111). -/
def RegisterResult (s t : State) (dr : Reg) (v : Word) : Prop :=
  t.reg dr = v ∧ SameRegsBut dr s t ∧ CodesOf t v ∧ SamePsrAboveCodes s t ∧ t.pc = s.pc ∧ SameMemory s t ∧ SameRest s t

/-- A store to plain memory ended: the word at a is v, every other location and everything else is as before. -/
def StoreResult (s t : State) (a v : Word) : Prop :=
  t.word a = v ∧ (∀ b : Word, b ≠ a → t.word b = s.word b) ∧ t.regs = s.regs ∧ t.psr = s.psr ∧ t.pc = s.pc ∧ SameRest s t

/-- The stack pointer an entry into Supervisor mode pushes below: Saved_SSP from User mode, R6 from Supervisor mode
(R154). -/
def entrySp (s : State) : Word := if s.userMode then s.savedSsp else s.reg .r6

/-- The two words an entry pushes lie in plain memory, and memory is in canonical form. -/
def StackReady (s : State) : Prop :=
  s.mem.wf = true ∧ isDevice (entrySp s - 1) = false ∧ isDevice (entrySp s - 2) = false

/-- An entry into Supervisor mode ended (R130, R154): PSR of s and the word `pc` pushed, the mode and for an interrupt
the priority changed, the stack pointers switched from User mode, the PC loaded from the table entry, nothing else
changed. -/
def Entered (s t : State) (pc : Word) (level : Option (BitVec 3)) (entry : Word) : Prop :=
  t.word (entrySp s - 1) = s.psr ∧ t.word (entrySp s - 2) = pc ∧
  (∀ a : Word, a ≠ entrySp s - 1 → a ≠ entrySp s - 2 → t.word a = s.word a) ∧
  t.reg .r6 = entrySp s - 2 ∧ SameRegsBut .r6 s t ∧
  t.savedUsp = (if s.userMode then s.reg .r6 else s.savedUsp) ∧ t.savedSsp = s.savedSsp ∧
  t.userMode = false ∧ t.priority = level.getD s.priority ∧
  (∀ b : Nat, b < 8 ∨ 11 ≤ b ∧ b < 15 → t.psr.getLsbD b = s.psr.getLsbD b) ∧
  t.pc = t.word entry ∧ SameDevices s t ∧ SameHost s t

/-- The bits R87 shows as constants and the operation never reads, of the row an instruction is encoded by. -/
def fixedBits : Instr → Word
  | .addReg _ _ _ => 0x0018
  | .andReg _ _ _ => 0x0018
  | .jmp _ => 0x0E3F
  | .ret => 0x0E3F
  | .jsrr _ => 0x063F
  | .notReg _ _ => 0x003F
  | .rti => 0x0FFF
  | .trap _ => 0x0F00
  | .addImm _ _ _ | .andImm _ _ _ | .br _ _ _ _ | .jsr _ | .ld _ _ | .ldi _ _ | .ldr _ _ _ | .lea _ _
  | .st _ _ | .sti _ _ | .str _ _ _ | .reserved _ => 0

/-- The addresses a load or store tests, in order (R60): LDI and STI test the pointer's and then the pointer. -/
def dataAddresses (i : Instr) (s : State) : List Word :=
  match i with
  | .ld _ off => [pcRelative s off]
  | .ldi _ off => [pcRelative s off, s.word (pcRelative s off)]
  | .ldr _ base off => [baseOffset s base off]
  | .st _ off => [pcRelative s off]
  | .sti _ off => [pcRelative s off, s.word (pcRelative s off)]
  | .str _ base off => [baseOffset s base off]
  | .addReg _ _ _ | .addImm _ _ _ | .andReg _ _ _ | .andImm _ _ _ | .br _ _ _ _ | .ret | .jmp _ | .jsr _ | .jsrr _
  | .lea _ _ | .notReg _ _ | .rti | .trap _ | .reserved _ => []

/-- "If either computed address is to privileged memory" (R112): some data address is privileged. -/
def touchesPrivileged (i : Instr) (s : State) : Bool := (dataAddresses i s).any privileged

/-- TRAP, RTI and the reserved opcode: the instructions that enter or leave Supervisor mode of themselves (R28, R170). -/
def isSystem : Instr → Bool
  | .trap _ | .rti | .reserved _ => true
  | .addReg _ _ _ | .addImm _ _ _ | .andReg _ _ _ | .andImm _ _ _ | .br _ _ _ _ | .ret | .jmp _ | .jsr _ | .jsrr _
  | .lea _ _ | .notReg _ _ | .ld _ _ | .ldi _ _ | .ldr _ _ _ | .st _ _ | .sti _ _ | .str _ _ _ => false

/-- What a User-mode process can see of the machine: registers, PC, PSR, the unprivileged locations and the parameters
(R55, R170). -/
def UserEqual (s t : State) : Prop :=
  s.regs = t.regs ∧ s.pc = t.pc ∧ s.psr = t.psr ∧ s.params = t.params ∧
  ∀ a : Word, privileged a = false → s.word a = t.word a

/-- The words at consecutive addresses from a, all in plain memory. -/
def HoldsWords (s : State) (a : Word) : List Word → Prop
  | [] => True
  | w :: ws => isDevice a = false ∧ s.word a = w ∧ HoldsWords s (a + 1) ws

/-- The processor's next step fetches and executes: its turn, the clock runs (R31), no interrupt is taken (R163), and the
fetch from the PC is allowed and from plain memory (R30, R61). -/
def Executes (s : State) : Prop :=
  turn s = .processor ∧ s.clockEnabled = true ∧
  ¬(s.kbsrReady = true ∧ s.kbsrIe = true ∧ s.priority.toNat < 4) ∧
  fetchViolation s s.pc = false ∧ isDevice s.pc = false

end Sys2Proof.Machine
end

