-- ==== Sys2Proof/Certificates/Slice0/Obligations.lean ====
section
/-! DEFINITION. The statements for the provers. Those of one instruction name the state `s` whose PC is the incremented
PC (R27), as `exec` takes it. -/

open Sys2Proof Sys2Proof.Machine

/- Encoding and decoding -/

/-- Decoding the word of a well-formed instruction gives it back (R82, R87, R99). -/
def Obligations.DecodeOfEncodeIsTheInstruction : Prop :=
  ∀ i : Instr, i.wellFormed = true → decode (encode i) = .ok i

/-- Each canonical word is one instruction's only word, and no bit of it is dropped (R85, R90). That only these words
decode is the spec's decision D6 (log 15). -/
def Obligations.EncodeOfDecodedWordIsTheWord : Prop :=
  ∀ (w : Word) (i : Instr), decode w = .ok i → encode i = w ∧ i.wellFormed = true

/-- A word is rejected exactly when the instruction its opcode, mode bit and named fields give has another canonical
word (R87, R89). That they are rejected is the spec's decision D6 (log 15). -/
def Obligations.RejectedExactlyWhenNotCanonical : Prop :=
  ∀ w : Word, (∃ r, decode w = .error r) ↔ encode (decodeLoose w) ≠ w

/-- What NONCANONICAL_POLICY = ignore executes carries every bit of the word but the fixed bits of its row (R89). The
spec's decision D6 (log 15). -/
def Obligations.LooseDecodingKeepsEveryNamedBit : Prop :=
  ∀ w : Word, (encode (decodeLoose w) ^^^ w) &&& ~~~ fixedBits (decodeLoose w) = 0

/-- All 4096 words xD000 to xDFFF are the reserved opcode and no other word is (R88). -/
def Obligations.ReservedOpcodeIsExactly1101 : Prop :=
  ∀ (w : Word) (b : BitVec 12), decode w = .ok (.reserved b) ↔ w = 0b1101#4 ++ b

/-- Words of 95_test_vectors.md section 2 decode to the instructions they stand for. -/
def Obligations.SourceExampleWordsDecode : Prop :=
  decode 0x14C4 = .ok (.addReg .r2 .r3 .r4) ∧ decode 0x54E7 = .ok (.andImm .r2 .r3 7) ∧
  decode 0x98BF = .ok (.notReg .r4 .r2) ∧ decode 0x68BB = .ok (.ldr .r4 .r2 (-5)) ∧
  decode 0x7885 = .ok (.str .r4 .r2 5) ∧ decode 0x07FC = .ok (.br false true true (-4)) ∧
  decode 0xC080 = .ok (.jmp .r2) ∧ decode 0xC1C0 = .ok .ret ∧ decode 0x48FF = .ok (.jsr 0x0FF) ∧
  decode 0x40C0 = .ok (.jsrr .r3) ∧ decode 0xF023 = .ok (.trap 0x23) ∧ decode 0x8000 = .ok .rti

/- The step -/

/-- A step of the processor runs the decoded instruction: when it is the processor's turn, the clock runs, no interrupt
is taken and the fetch is allowed, `step` is `exec` of the instruction the word at the PC decodes to, on the state with
the turn taken and the PC incremented (R30). Whose move it is, is the model's choice (log 12); the fetch test is the
spec's decision D5 (log 11). -/
def Obligations.StepRunsTheDecodedInstruction : Prop :=
  ∀ (s : State) (i : Instr), Executes s → decode (s.word s.pc) = .ok i →
    step s = exec i ((takeTurn s).setPc (s.pc + 1))

/-- A fetched word that is no canonical instruction is refused under NONCANONICAL_POLICY = refuse and executed as the
instruction of its opcode, mode bit and named fields under ignore (R89, D6). Log 15. -/
def Obligations.StepOnNonCanonicalWord : Prop :=
  ∀ (s : State) (r : Reject), Executes s → decode (s.word s.pc) = .error r →
    (s.params.noncanonical = .refuse → step s = .refused (.nonCanonical r)) ∧
    (s.params.noncanonical = .ignore → step s = exec (decodeLoose (s.word s.pc)) ((takeTurn s).setPc (s.pc + 1)))

/-- The fetch: from a privileged address in User mode with FETCH_ACV it takes the ACV exception before the word is read,
with the incremented PC (R30, R61); from a device address otherwise it has no meaning (U11, D22). Log 11, log 20. -/
def Obligations.FetchOutsideAllowedMemory : Prop :=
  ∀ s : State, turn s = .processor → s.clockEnabled = true →
    ¬(s.kbsrReady = true ∧ s.kbsrIe = true ∧ s.priority.toNat < 4) →
    (s.params.fetchAcv = true → s.userMode = true → privileged s.pc = true →
      step s = raise .acv ((takeTurn s).setPc (s.pc + 1))) ∧
    (isDevice s.pc = true → (s.userMode = false ∨ s.params.fetchAcv = false) → step s = .refused .fetchFromDevice)

/-- `withFetchWord` makes the next step run the word it is given. The model's own function, for the host's load (log
34). -/
def Obligations.PlacedWordIsRunNext : Prop :=
  ∀ (s : State) (w : Word) (i : Instr), s.mem.wf = true → s.clockEnabled = true →
    ¬(s.kbsrReady = true ∧ s.kbsrIe = true ∧ s.priority.toNat < 4) →
    fetchViolation s s.pc = false → isDevice s.pc = false → decode w = .ok i →
    step (s.withFetchWord 16 w.toNat) = exec i ((s.setMem (s.mem.write s.pc.toNat w)).setPc (s.pc + 1))

/-- With MCR[15] = 0 the processor's step changes nothing but the taken turn, and no agent's step starts it again (R31).
That such a step is a next state is the model's choice (log 30). -/
def Obligations.StoppedProcessorStaysStopped : Prop :=
  ∀ s : State, s.clockEnabled = false →
    (turn s = .processor → step s = .next (takeTurn s)) ∧
    (∃ t, step s = .next t ∧ t.regs = s.regs ∧ t.pc = s.pc ∧ t.psr = s.psr ∧ t.mcr = s.mcr ∧ SameSaved s t ∧
      SameMemory s t)

/-- The keyboard's move delivers the next key (R171, R192): KBDR is the zero-extended character and KBSR[15] is 1; under
KBD_OVERRUN = hold it waits for KBSR[15] = 0, under overwrite it does not. Nothing else changes. The spec's decisions
D10 and D20 (log 13). -/
def Obligations.KeyboardMoveDeliversTheNextKey : Prop :=
  ∀ (s : State) (c : Byte) (rest : List Byte), turn s = .keyboard → s.keys = c :: rest →
    (s.kbsrReady = false ∨ s.params.kbdOverrun = .overwrite →
      ∃ t, step s = .next t ∧ t.kbdr.toNat = c.toNat ∧ t.kbsrReady = true ∧ t.keys = rest ∧ t.schedule = s.schedule.tail ∧
        t.regs = s.regs ∧ t.pc = s.pc ∧ t.psr = s.psr ∧ t.mem = s.mem ∧ SameSaved s t ∧ t.mcr = s.mcr ∧
        t.kbsrIe = s.kbsrIe ∧ t.dsrReady = s.dsrReady ∧ t.ddr = s.ddr ∧ t.output = s.output ∧ t.params = s.params ∧
        t.freeCount = s.freeCount) ∧
    (s.kbsrReady = true → s.params.kbdOverrun = .hold → step s = .next (takeTurn s))

/-- The display's move sets DSR[15] and nothing else. That it sets DSR[15] is K5, which R174 marks as general knowledge,
under the spec's decisions D11 and D20 (log 21, PRESUMED). With no schedule left a busy display moves next, so it is
never busy for ever (R203; the model's choice of the moment, log 12). -/
def Obligations.DisplayMoveMakesItReady : Prop :=
  ∀ s : State, (turn s = .display ∨ s.schedule = [] ∧ s.dsrReady = false) →
    ∃ t, step s = .next t ∧ t.dsrReady = true ∧ t.schedule = s.schedule.tail ∧
      t.regs = s.regs ∧ t.pc = s.pc ∧ t.psr = s.psr ∧ t.mem = s.mem ∧ SameSaved s t ∧ t.mcr = s.mcr ∧
      t.kbsrReady = s.kbsrReady ∧ t.kbsrIe = s.kbsrIe ∧ t.kbdr = s.kbdr ∧ t.ddr = s.ddr ∧ t.output = s.output ∧
      t.keys = s.keys ∧ t.params = s.params ∧ t.freeCount = s.freeCount

/- Operands and flags -/

/-- `sext_16` is the field read as a 2's complement integer and `zext_16` the field read as an unsigned one, in sixteen
bits (R6, R7). -/
def Obligations.ExtensionsKeepTheFieldsValue : Prop :=
  (∀ (v : BitVec 5), sext16 v = BitVec.ofInt 16 v.toInt) ∧ (∀ (v : BitVec 6), sext16 v = BitVec.ofInt 16 v.toInt) ∧
  (∀ (v : BitVec 9), sext16 v = BitVec.ofInt 16 v.toInt) ∧ (∀ (v : BitVec 11), sext16 v = BitVec.ofInt 16 v.toInt) ∧
  (∀ (w : Nat) (v : BitVec w), w ≤ 16 → (zext16 v).toNat = v.toNat)

/-- Effective addresses are sums modulo 2^16 of the incremented PC or a base register and the signed field (R110, R75).
The wrap is the spec's decision D2 (log 37). -/
def Obligations.EffectiveAddressesWrap : Prop :=
  (∀ (s : State) (off : BitVec 9), pcRelative s off = BitVec.ofInt 16 (s.pc.toNat + off.toInt)) ∧
  (∀ (s : State) (off : BitVec 11), pcRelative s off = BitVec.ofInt 16 (s.pc.toNat + off.toInt)) ∧
  (∀ (s : State) (base : Reg) (off : BitVec 6),
    baseOffset s base off = BitVec.ofInt 16 ((s.reg base).toNat + off.toInt))

/-- `setcc(v)` sets exactly one of N, Z, P, according to v read as a 16-bit 2's complement integer, and changes PSR[2:0]
only (R34). -/
def Obligations.SetccClassifiesTheValue : Prop :=
  ∀ (s : State) (v : Word),
    ((s.setcc v).flagN, (s.setcc v).flagZ, (s.setcc v).flagP) =
      (if v.toInt < 0 then (true, false, false) else if v = 0 then (false, true, false) else (false, false, true)) ∧
    SamePsrAboveCodes s (s.setcc v) ∧ s.setcc v = s.setPsr (s.setcc v).psr

/-- The privileged addresses are x0000 to x2FFF and xFE00 to xFFFF (R55). -/
def Obligations.PrivilegedAddresses : Prop :=
  ∀ a : Word, privileged a = true ↔ a.toNat ≤ 0x2FFF ∨ 0xFE00 ≤ a.toNat

/- Operate instructions -/

/-- ADD, both forms: encoding, the low 16 bits of the mathematical sum in DR, the codes of it, nothing else; in both
modes, with DR any register, a source too (R100, R101). The wrap modulo 2^16 is the spec's decision D2 (log 37). -/
def Obligations.AddWritesTheSum : Prop :=
  ∀ (dr sr1 sr2 : Reg) (imm5 : BitVec 5) (s : State),
    decode (0b0001#4 ++ dr.toBits ++ sr1.toBits ++ 0b0#1 ++ 0b00#2 ++ sr2.toBits) = .ok (.addReg dr sr1 sr2) ∧
    decode (0b0001#4 ++ dr.toBits ++ sr1.toBits ++ 0b1#1 ++ imm5) = .ok (.addImm dr sr1 imm5) ∧
    (∃ t, exec (.addReg dr sr1 sr2) s = .next t ∧
      RegisterResult s t dr (BitVec.ofInt 16 ((s.reg sr1).toInt + (s.reg sr2).toInt))) ∧
    (∃ t, exec (.addImm dr sr1 imm5) s = .next t ∧
      RegisterResult s t dr (BitVec.ofInt 16 ((s.reg sr1).toInt + imm5.toInt)))

/-- AND, both forms: encoding, every bit of DR the conjunction of the operands' bits, imm5's sign above its four low
bits, the codes of the result, nothing else (R100, R102). -/
def Obligations.AndWritesTheConjunction : Prop :=
  ∀ (dr sr1 sr2 : Reg) (imm5 : BitVec 5) (s : State),
    decode (0b0101#4 ++ dr.toBits ++ sr1.toBits ++ 0b0#1 ++ 0b00#2 ++ sr2.toBits) = .ok (.andReg dr sr1 sr2) ∧
    decode (0b0101#4 ++ dr.toBits ++ sr1.toBits ++ 0b1#1 ++ imm5) = .ok (.andImm dr sr1 imm5) ∧
    (∃ t, exec (.andReg dr sr1 sr2) s = .next t ∧ RegisterResult s t dr (t.reg dr) ∧
      ∀ b, (t.reg dr).getLsbD b = ((s.reg sr1).getLsbD b && (s.reg sr2).getLsbD b)) ∧
    (∃ t, exec (.andImm dr sr1 imm5) s = .next t ∧ RegisterResult s t dr (t.reg dr) ∧
      ∀ b, (t.reg dr).getLsbD b = ((s.reg sr1).getLsbD b && (if b < 5 then imm5.getLsbD b else imm5.msb)))

/-- NOT: encoding, DR = xFFFF - R[SR], the codes of it, nothing else (R100, R103). -/
def Obligations.NotWritesTheComplement : Prop :=
  ∀ (dr sr : Reg) (s : State),
    decode (0b1001#4 ++ dr.toBits ++ sr.toBits ++ 0b1#1 ++ 0b11111#5) = .ok (.notReg dr sr) ∧
    (∃ t, exec (.notReg dr sr) s = .next t ∧ RegisterResult s t dr (0xFFFF - s.reg sr))

/- Data movement -/

/-- LD: encoding; the ACV exception when the address is privileged in User mode; else DR is the word at PC + PCoffset9
and the codes are its, nothing else; an address of a device register reads what `memRead` reads there (R111). -/
def Obligations.LdLoadsTheAddressedWord : Prop :=
  ∀ (dr : Reg) (off : BitVec 9) (s : State),
    decode (0b0010#4 ++ dr.toBits ++ off) = .ok (.ld dr off) ∧
    (s.userMode = true → privileged (pcRelative s off) = true → exec (.ld dr off) s = raise .acv s) ∧
    (s.userMode = false ∨ privileged (pcRelative s off) = false →
      (isDevice (pcRelative s off) = false →
        ∃ t, exec (.ld dr off) s = .next t ∧ RegisterResult s t dr (s.word (pcRelative s off))) ∧
      (∀ v s1, memRead s (pcRelative s off) = .next (v, s1) →
        ∃ t, exec (.ld dr off) s = .next t ∧ RegisterResult s1 t dr v) ∧
      (∀ r, memRead s (pcRelative s off) = .refused r → exec (.ld dr off) s = .refused r))

/-- LDR: as LD, the address R[BaseR] + offset6, BaseR read before DR is written (R113). -/
def Obligations.LdrLoadsTheAddressedWord : Prop :=
  ∀ (dr base : Reg) (off : BitVec 6) (s : State),
    decode (0b0110#4 ++ dr.toBits ++ base.toBits ++ off) = .ok (.ldr dr base off) ∧
    (s.userMode = true → privileged (baseOffset s base off) = true → exec (.ldr dr base off) s = raise .acv s) ∧
    (s.userMode = false ∨ privileged (baseOffset s base off) = false →
      (isDevice (baseOffset s base off) = false →
        ∃ t, exec (.ldr dr base off) s = .next t ∧ RegisterResult s t dr (s.word (baseOffset s base off))) ∧
      (∀ v s1, memRead s (baseOffset s base off) = .next (v, s1) →
        ∃ t, exec (.ldr dr base off) s = .next t ∧ RegisterResult s1 t dr v) ∧
      (∀ r, memRead s (baseOffset s base off) = .refused r → exec (.ldr dr base off) s = .refused r))

/-- LDI: encoding; ACV when the pointer's address, or else the pointer, is privileged in User mode; else DR is the word
the pointer addresses, the pointer read first, with the codes of the word loaded and nothing else changed; device
registers are read as `memRead` reads them (R112). The order of the tests and reads is the spec's decision D18 (log 35).
-/
def Obligations.LdiLoadsThroughThePointer : Prop :=
  ∀ (dr : Reg) (off : BitVec 9) (s : State),
    decode (0b1010#4 ++ dr.toBits ++ off) = .ok (.ldi dr off) ∧
    (s.userMode = true → privileged (pcRelative s off) = true → exec (.ldi dr off) s = raise .acv s) ∧
    (s.userMode = true → privileged (pcRelative s off) = false → privileged (s.word (pcRelative s off)) = true →
      exec (.ldi dr off) s = raise .acv s) ∧
    (s.userMode = false ∨ privileged (pcRelative s off) = false ∧ privileged (s.word (pcRelative s off)) = false →
      (isDevice (pcRelative s off) = false → isDevice (s.word (pcRelative s off)) = false →
        ∃ t, exec (.ldi dr off) s = .next t ∧ RegisterResult s t dr (s.word (s.word (pcRelative s off)))) ∧
      (∀ a s1 v s2, memRead s (pcRelative s off) = .next (a, s1) → memRead s1 a = .next (v, s2) →
        ∃ t, exec (.ldi dr off) s = .next t ∧ RegisterResult s2 t dr v) ∧
      (∀ r, memRead s (pcRelative s off) = .refused r → exec (.ldi dr off) s = .refused r) ∧
      (∀ a s1 r, memRead s (pcRelative s off) = .next (a, s1) → memRead s1 a = .refused r →
        exec (.ldi dr off) s = .refused r))

/-- LEA: encoding; DR is PC + PCoffset9 in both modes, privileged or not, no condition code and nothing else changes
(R114). -/
def Obligations.LeaWritesTheAddress : Prop :=
  ∀ (dr : Reg) (off : BitVec 9) (s : State),
    decode (0b1110#4 ++ dr.toBits ++ off) = .ok (.lea dr off) ∧
    ∃ t, exec (.lea dr off) s = .next t ∧ t.reg dr = s.pc + sext16 off ∧ SameRegsBut dr s t ∧ t.pc = s.pc ∧
      t.psr = s.psr ∧ SameMemory s t ∧ SameRest s t

/-- ST: encoding; ACV when the address is privileged in User mode; else mem[PC + PCoffset9] is R[SR] and nothing else
changes, the codes and registers neither; a device register takes what `memWrite` writes there (R115). -/
def Obligations.StStoresAtTheAddress : Prop :=
  ∀ (sr : Reg) (off : BitVec 9) (s : State), s.mem.wf = true →
    decode (0b0011#4 ++ sr.toBits ++ off) = .ok (.st sr off) ∧
    (s.userMode = true → privileged (pcRelative s off) = true → exec (.st sr off) s = raise .acv s) ∧
    (s.userMode = false ∨ privileged (pcRelative s off) = false →
      (isDevice (pcRelative s off) = false →
        ∃ t, exec (.st sr off) s = .next t ∧ StoreResult s t (pcRelative s off) (s.reg sr)) ∧
      (isDevice (pcRelative s off) = true → exec (.st sr off) s = memWrite s (pcRelative s off) (s.reg sr)))

/-- STR: as ST, the address R[BaseR] + offset6 (R117). -/
def Obligations.StrStoresAtTheAddress : Prop :=
  ∀ (sr base : Reg) (off : BitVec 6) (s : State), s.mem.wf = true →
    decode (0b0111#4 ++ sr.toBits ++ base.toBits ++ off) = .ok (.str sr base off) ∧
    (s.userMode = true → privileged (baseOffset s base off) = true → exec (.str sr base off) s = raise .acv s) ∧
    (s.userMode = false ∨ privileged (baseOffset s base off) = false →
      (isDevice (baseOffset s base off) = false →
        ∃ t, exec (.str sr base off) s = .next t ∧ StoreResult s t (baseOffset s base off) (s.reg sr)) ∧
      (isDevice (baseOffset s base off) = true →
        exec (.str sr base off) s = memWrite s (baseOffset s base off) (s.reg sr)))

/-- STI: encoding; ACV when the pointer's address, or else the pointer, is privileged in User mode, nothing written;
else the word the pointer addresses is R[SR] and nothing else changes; device registers are read and written as
`memRead` and `memWrite` do (R116). The order is the spec's decision D18 (log 35). -/
def Obligations.StiStoresThroughThePointer : Prop :=
  ∀ (sr : Reg) (off : BitVec 9) (s : State), s.mem.wf = true →
    decode (0b1011#4 ++ sr.toBits ++ off) = .ok (.sti sr off) ∧
    (s.userMode = true → privileged (pcRelative s off) = true → exec (.sti sr off) s = raise .acv s) ∧
    (s.userMode = true → privileged (pcRelative s off) = false → privileged (s.word (pcRelative s off)) = true →
      exec (.sti sr off) s = raise .acv s) ∧
    (s.userMode = false ∨ privileged (pcRelative s off) = false ∧ privileged (s.word (pcRelative s off)) = false →
      (isDevice (pcRelative s off) = false → isDevice (s.word (pcRelative s off)) = false →
        ∃ t, exec (.sti sr off) s = .next t ∧ StoreResult s t (s.word (pcRelative s off)) (s.reg sr)) ∧
      (∀ a s1, memRead s (pcRelative s off) = .next (a, s1) → (isDevice (pcRelative s off) = true ∨ isDevice a = true) →
        exec (.sti sr off) s = memWrite s1 a (s.reg sr)) ∧
      (∀ r, memRead s (pcRelative s off) = .refused r → exec (.sti sr off) s = .refused r))

/-- In User mode a load or store with a privileged address does nothing but take the ACV exception (R56, R57, R160): the
six of them, no other instruction has an address. In Supervisor mode none of the six raises ACV: each is its plain reads
and write, whatever the address (R118). For LDI and STI the order is the spec's decision D18 (log 35). -/
def Obligations.UserAccessToPrivilegedMemoryIsAcv : Prop :=
  (∀ (i : Instr) (s : State), s.userMode = true → touchesPrivileged i s = true → exec i s = raise .acv s) ∧
  (∀ (r base : Reg) (off9 : BitVec 9) (off6 : BitVec 6) (s : State), s.userMode = false →
    exec (.ld r off9) s = andThen (memRead s (pcRelative s off9)) (fun p => .next (writeResult p.2 r p.1)) ∧
    exec (.ldr r base off6) s = andThen (memRead s (baseOffset s base off6)) (fun p => .next (writeResult p.2 r p.1)) ∧
    exec (.ldi r off9) s = andThen (memRead s (pcRelative s off9))
      (fun p => andThen (memRead p.2 p.1) (fun q => .next (writeResult q.2 r q.1))) ∧
    exec (.st r off9) s = memWrite s (pcRelative s off9) (s.reg r) ∧
    exec (.str r base off6) s = memWrite s (baseOffset s base off6) (s.reg r) ∧
    exec (.sti r off9) s = andThen (memRead s (pcRelative s off9)) (fun p => memWrite p.2 p.1 (s.reg r)))

/- Device registers -/

/-- Loads from the six device registers (R62, R172, R173, R175 to R178): KBSR is ready, IE and zeros; KBDR clears the
ready bit and nothing else; DSR is ready and zeros; DDR cannot be loaded; PSR and MCR are read whole; none but KBDR
changes anything. The spec's decisions D8, D10, D11, D12 (log 16, 19, 21, 22, 23). -/
def Obligations.DeviceRegisterLoads : Prop :=
  ∀ s : State,
    (∃ v, memRead s 0xFE00 = .next (v, s) ∧ ∀ b : Nat, v.getLsbD b =
      ((decide (b = 15) && s.kbsrReady) || (decide (b = s.params.kbdIeBit.val) && s.kbsrIe))) ∧
    (∃ t, memRead s 0xFE02 = .next (s.kbdr, t) ∧ t.kbsrReady = false ∧ t.regs = s.regs ∧ t.pc = s.pc ∧ t.psr = s.psr ∧
      SameSaved s t ∧ t.mem = s.mem ∧ t.mcr = s.mcr ∧ t.kbsrIe = s.kbsrIe ∧ t.kbdr = s.kbdr ∧ t.dsrReady = s.dsrReady ∧
      t.ddr = s.ddr ∧ t.output = s.output ∧ SameHost s t) ∧
    (∃ v, memRead s 0xFE04 = .next (v, s) ∧ ∀ b : Nat, v.getLsbD b = (decide (b = 15) && s.dsrReady)) ∧
    memRead s 0xFE06 = .refused .ddrLoad ∧
    memRead s 0xFFFC = .next (s.psr, s) ∧ memRead s 0xFFFE = .next (s.mcr, s)

/-- Stores to the device registers (R172 to R178): KBSR takes the IE bit alone; KBDR cannot be stored to; DSR ignores
the store; MCR takes all sixteen bits; a store to the PSR is refused or replaces it with no exchange of stack pointers,
as PSR_STORE_POLICY says. The spec's decisions D8, D10, D11, D12 (log 16, 19, 22, 23). -/
def Obligations.DeviceRegisterStores : Prop :=
  ∀ (s : State) (v : Word),
    (∃ t, memWrite s 0xFE00 v = .next t ∧ t.kbsrIe = v.getLsbD s.params.kbdIeBit.val ∧ t = { s with kbsrIe := t.kbsrIe }) ∧
    memWrite s 0xFE02 v = .refused .kbdrStore ∧
    memWrite s 0xFE04 v = .next s ∧
    (∃ t, memWrite s 0xFFFE v = .next t ∧ t = { s with mcr := v }) ∧
    (s.params.psrStore = .refuse → memWrite s 0xFFFC v = .refused .psrStore) ∧
    (s.params.psrStore = .write → ∃ t, memWrite s 0xFFFC v = .next t ∧ t = { s with psr := v })

/-- A store to DDR (R174, R176): with DSR[15] = 1 bits [7:0] are appended to the output and DSR[15] becomes 0; with
DSR[15] = 0 it is refused, dropped or displayed, as DDR_BUSY_STORE says. DDR holds the word stored (the model's own
record of it, log 5); nothing else changes. The spec's decision D11 (log 18, 21). -/
def Obligations.StoreToDdrDisplays : Prop :=
  ∀ (s : State) (v : Word),
    (s.dsrReady = true ∨ s.params.ddrBusyStore = .display → ∃ t, memWrite s 0xFE06 v = .next t ∧
      t.output = s.output ++ [v.extractLsb' 0 8] ∧ t.dsrReady = false ∧
      t = { s with output := t.output, dsrReady := false, ddr := v }) ∧
    (s.dsrReady = false → s.params.ddrBusyStore = .drop → memWrite s 0xFE06 v = .next { s with ddr := v }) ∧
    (s.dsrReady = false → s.params.ddrBusyStore = .refuse → memWrite s 0xFE06 v = .refused .ddrBusy)

/-- The 506 device addresses without a register (R63): refused, or a load gives a free value and a store is discarded,
or they behave as memory, as UNASSIGNED_IO_POLICY says. The free value is the model's own constant (log 14): no
statement rests on what it is. The spec's decision D9 (log 17). -/
def Obligations.UnassignedDeviceAddresses : Prop :=
  ∀ (s : State) (a v : Word), isDevice a = true → deviceRegisters.contains a.toNat = false →
    (s.params.unassignedIo = .refuse → memRead s a = .refused .unassignedIo ∧ memWrite s a v = .refused .unassignedIo) ∧
    (s.params.unassignedIo = .anyValue →
      memRead s a = .next (Config.freeWord s.freeCount, s.draw) ∧ memWrite s a v = .next s) ∧
    (s.params.unassignedIo = .memory → s.mem.wf = true →
      memRead s a = .next (s.word a, s) ∧ ∃ t, memWrite s a v = .next t ∧ StoreResult s t a v)

/- Control -/

/-- BR: encoding; the PC becomes PC + PCoffset9 exactly when a tested code is 1, and nothing else changes; with n = z =
p = 0 it never branches (R120, R90). -/
def Obligations.BrBranchesOnTheTestedCodes : Prop :=
  ∀ (n z p : Bool) (off : BitVec 9) (s : State),
    decode (0b0000#4 ++ BitVec.ofBool n ++ BitVec.ofBool z ++ BitVec.ofBool p ++ off) = .ok (.br n z p off) ∧
    ∃ t, exec (.br n z p off) s = .next t ∧
      ((n = true ∧ s.flagN = true) ∨ (z = true ∧ s.flagZ = true) ∨ (p = true ∧ s.flagP = true) →
        t.pc = s.pc + sext16 off) ∧
      (¬((n = true ∧ s.flagN = true) ∨ (z = true ∧ s.flagZ = true) ∨ (p = true ∧ s.flagP = true)) → t.pc = s.pc) ∧
      t.regs = s.regs ∧ t.psr = s.psr ∧ SameMemory s t ∧ SameRest s t

/-- JMP and RET: encodings; the PC becomes R[BaseR], R7 for RET, and nothing else changes; RET is xC1C0 and executes as
JMP R7 (R121, R122, R91). -/
def Obligations.JmpAndRetLoadThePc : Prop :=
  ∀ (base : Reg) (s : State),
    decode (0b1100#4 ++ 0b000#3 ++ base.toBits ++ 0b000000#6) = .ok (if base = .r7 then .ret else .jmp base) ∧
    (∃ t, exec (.jmp base) s = .next t ∧ t.pc = s.reg base ∧ t.regs = s.regs ∧ t.psr = s.psr ∧ SameMemory s t ∧
      SameRest s t) ∧
    encode .ret = 0xC1C0 ∧
    (∃ t, exec .ret s = .next t ∧ t.pc = s.reg .r7 ∧ t.regs = s.regs ∧ t.psr = s.psr ∧ SameMemory s t ∧ SameRest s t) ∧
    exec .ret s = exec (.jmp .r7) s

/-- JSR: encoding; R7 is the incremented PC, the PC is PC + PCoffset11, nothing else changes (R123). -/
def Obligations.JsrLinksAndJumps : Prop :=
  ∀ (off : BitVec 11) (s : State),
    decode (0b0100#4 ++ 0b1#1 ++ off) = .ok (.jsr off) ∧
    ∃ t, exec (.jsr off) s = .next t ∧ t.reg .r7 = s.pc ∧ t.pc = s.pc + sext16 off ∧ SameRegsBut .r7 s t ∧
      t.psr = s.psr ∧ SameMemory s t ∧ SameRest s t

/-- JSRR: encoding; the PC is R[BaseR] as it was before R7 is written, JSRR R7 too; R7 is the incremented PC (R124). -/
def Obligations.JsrrJumpsToTheOldRegister : Prop :=
  ∀ (base : Reg) (s : State),
    decode (0b0100#4 ++ 0b0#1 ++ 0b00#2 ++ base.toBits ++ 0b000000#6) = .ok (.jsrr base) ∧
    ∃ t, exec (.jsrr base) s = .next t ∧ t.reg .r7 = s.pc ∧ t.pc = s.reg base ∧ SameRegsBut .r7 s t ∧
      t.psr = s.psr ∧ SameMemory s t ∧ SameRest s t

/- The stack, TRAP, RTI, exceptions, interrupts -/

/-- `Push(v)` decrements R6 and then writes v at the new R6, and `Pop()` then returns v and restores R6 (R152, R153); on
plain memory, nothing else changed. The direction is the spec's decision D17 (log 37). -/
def Obligations.PushThenPopReturnsTheWord : Prop :=
  ∀ (s : State) (v : Word), s.mem.wf = true → isDevice (s.reg .r6 - 1) = false →
    ∃ t, push s v = .next t ∧ t.reg .r6 = s.reg .r6 - 1 ∧ t.word (s.reg .r6 - 1) = v ∧ SameRegsBut .r6 s t ∧
      (∀ a : Word, a ≠ s.reg .r6 - 1 → t.word a = s.word a) ∧ t.pc = s.pc ∧ t.psr = s.psr ∧ SameRest s t ∧
      ∃ u, pop t = .next (v, u) ∧ u.regs = s.regs ∧ SameMemory t u ∧ u.pc = s.pc ∧ u.psr = s.psr ∧ SameRest s u

/-- TRAP under OS_IMAGE concrete: encoding; PSR and then the incremented PC pushed on the supervisor stack, Supervisor
mode, the stack pointers exchanged from User mode only, the PC loaded from mem[zext_16(trapvect8)], the priority, the
codes, R7 and everything else unchanged (R130, R141). A stop of the first push is TRAP's. The order of the pushes is the
spec's decision D17 (log 37); StackReady excludes stacks in the device addresses (log 24). -/
def Obligations.TrapEntersTheServiceRoutine : Prop :=
  ∀ (vect : BitVec 8) (s : State),
    decode (0b1111#4 ++ 0b0000#4 ++ vect) = .ok (.trap vect) ∧
    (s.params.osImage = .concrete → StackReady s →
      ∃ t, exec (.trap vect) s = .next t ∧ Entered s t s.pc none (vect.setWidth 16)) ∧
    (s.params.osImage = .concrete → ∀ r, push (enterSupervisor s) s.psr = .refused r →
      exec (.trap vect) s = .refused r)

/-- RTI in Supervisor mode: PC and the whole PSR popped, R6 + 2; to User mode Saved_SSP takes the popped stack pointer
and R6 takes Saved_USP, to Supervisor mode nothing is exchanged; nothing else changes (R131). A stop of the first pop is
RTI's. Keeping the undefined bits and any codes is the spec's decisions D7 and D23 (log 23, 37). -/
def Obligations.RtiRestoresPcAndPsr : Prop :=
  ∀ s : State, s.userMode = false →
    decode 0x8000 = .ok .rti ∧
    (isDevice (s.reg .r6) = false → isDevice (s.reg .r6 + 1) = false →
      ∃ t, exec .rti s = .next t ∧ t.pc = s.word (s.reg .r6) ∧ t.psr = s.word (s.reg .r6 + 1) ∧
        (t.userMode = true → t.savedSsp = s.reg .r6 + 2 ∧ t.reg .r6 = s.savedUsp) ∧
        (t.userMode = false → t.savedSsp = s.savedSsp ∧ t.reg .r6 = s.reg .r6 + 2) ∧
        t.savedUsp = s.savedUsp ∧ SameRegsBut .r6 s t ∧ SameMemory s t ∧ SameDevices s t ∧ SameHost s t) ∧
    (∀ r, memRead s (s.reg .r6) = .refused r → exec .rti s = .refused r)

/-- RTI in User mode takes the privilege mode violation through x0100 and pops nothing (R131, R156); the PC pushed is
the incremented PC, or the instruction's own under EXC_PC = faulting (R159); the entry is that of every exception
(R154), the priority kept (R160). The PC pushed is the spec's decision D4 (log 10); the order of the two pushes and the
priority kept are its decisions D17 and D19 (log 37). -/
def Obligations.RtiInUserModeIsAViolation : Prop :=
  ∀ s : State, s.userMode = true →
    exec .rti s = raise .privilegeModeViolation s ∧
    (StackReady s → ∃ t, exec .rti s = .next t ∧
      Entered s t (if s.params.excPc = .incremented then s.pc else s.pc - 1) none 0x0100)

/-- The reserved opcode takes the illegal opcode exception through x0101 in both modes, whatever its bits [11:0] (R132,
R157); the entry is that of every exception (R154), the priority kept (R160). The PC pushed is the spec's decision D4
(log 10); the order of the two pushes and the priority kept are its decisions D17 and D19 (log 37). -/
def Obligations.ReservedOpcodeIsIllegal : Prop :=
  ∀ (b : BitVec 12) (s : State), StackReady s → ∃ t, exec (.reserved b) s = .next t ∧
    Entered s t (if s.params.excPc = .incremented then s.pc else s.pc - 1) none 0x0101

/-- The ACV exception goes through x0102 (R158); as every exception it saves PSR and PC on the supervisor stack, enters
Supervisor mode, leaves the priority alone and changes nothing else (R154, R160). The spec's decisions D4 and D19 (log
10, 37). -/
def Obligations.AcvEntersThroughX0102 : Prop :=
  ∀ s : State, StackReady s → ∃ t, raise .acv s = .next t ∧
    Entered s t (if s.params.excPc = .incremented then s.pc else s.pc - 1) none 0x0102

/-- A key that waits with IE set below PL4 interrupts before the next instruction (R163 to R165): the PC not incremented
is pushed, PSR[10:8] becomes 100, the PC is loaded from x0180, KBSR[15] stays 1, and the routine is not interrupted
again by it. Sampling at every step is the spec's decision D14 (log 37). -/
def Obligations.KeyboardInterruptIsTaken : Prop :=
  ∀ s : State, turn s = .processor → s.clockEnabled = true → s.kbsrReady = true → s.kbsrIe = true →
    s.priority.toNat < 4 → StackReady s →
    ∃ t, step s = .next t ∧ Entered (takeTurn s) t s.pc (some 4) 0x0180 ∧ t.kbsrReady = true ∧
      interruptCondition t = false

/-- Whatever entered Supervisor mode (TRAP, an exception, an interrupt) is returned from by RTI: when the routine leaves
the two pushed words, R6, Saved_USP and Saved_SSP as the entry left them and is in Supervisor mode, RTI restores the
caller's PSR and the pushed PC, the caller's stack pointer and both Saved registers the caller relies on (R130, R131,
R154, R167). An inference from those rules, with the stack in plain memory (log 24). -/
def Obligations.RtiUndoesEveryEntry : Prop :=
  ∀ (s t u : State) (pc : Word), StackReady s →
    ((∃ vect, s.params.osImage = .concrete ∧ exec (.trap vect) s = .next t ∧ pc = s.pc) ∨
      (∃ c, raise c s = .next t ∧ pc = exceptionPc s) ∨ (initiateInterrupt s = .next t ∧ pc = s.pc)) →
    u.userMode = false → u.reg .r6 = t.reg .r6 → u.savedUsp = t.savedUsp → u.savedSsp = t.savedSsp →
    u.word (t.reg .r6) = t.word (t.reg .r6) → u.word (t.reg .r6 + 1) = t.word (t.reg .r6 + 1) →
    ∃ v, exec .rti u = .next v ∧ v.pc = pc ∧ v.psr = s.psr ∧ v.reg .r6 = s.reg .r6 ∧ v.savedSsp = s.savedSsp ∧
      (s.userMode = false → v.savedUsp = s.savedUsp) ∧ SameRegsBut .r6 u v ∧ SameMemory u v

/- The trap service routines' contracts (OS_IMAGE abstract) -/

/-- GETC (R134): with a key in KBDR one step puts its eight bits, zero-extended, in R0 and clears KBSR[15]; without one
the routine waits, which the model shows as the TRAP executed again (the model's choice, log 25). Nothing else changes.
The one step is the spec's decision D15; that taking the key clears KBSR[15] is K4 (R173), general knowledge (log 21,
PRESUMED). -/
def Obligations.GetcContract : Prop :=
  ∀ s : State, s.params.osImage = .abstract → ∃ t, exec (.trap 0x20) s = .next t ∧
    (s.kbsrReady = true → (t.reg .r0).toNat = s.kbdr.toNat % 256 ∧ SameRegsBut .r0 s t ∧ t.kbsrReady = false ∧ t.pc = s.pc) ∧
    (s.kbsrReady = false → t.regs = s.regs ∧ t.kbsrReady = false ∧ t.pc = s.pc - 1) ∧
    t.psr = s.psr ∧ SameSaved s t ∧ SameMemory s t ∧ t.mcr = s.mcr ∧ t.kbsrIe = s.kbsrIe ∧ t.kbdr = s.kbdr ∧
    t.dsrReady = s.dsrReady ∧ t.ddr = s.ddr ∧ t.output = s.output ∧ SameHost s t

/-- OUT and IN (R135, R137): with the display ready OUT displays R0[7:0] and leaves every register; with a key waiting
too, IN displays a prompt of unknown text and then the character, which goes to R0. Otherwise they wait: OUT and IN
while DSR[15] = 0, IN with the display ready and no key too (the TRAP executed again, log 25; no prompt before the key,
log 41). One step each: the spec's decision D15 (log 25, 26, 29); that IN's taking the key clears KBSR[15] is K4 (R173),
general knowledge (log 21, PRESUMED). -/
def Obligations.OutAndInContracts : Prop :=
  ∀ s : State, s.params.osImage = .abstract →
    (s.dsrReady = true → ∃ t, exec (.trap 0x21) s = .next t ∧ t.output = s.output ++ [(s.reg .r0).extractLsb' 0 8] ∧
      t.regs = s.regs ∧ t.pc = s.pc ∧ t.psr = s.psr ∧ SameSaved s t ∧ SameMemory s t ∧ t.mcr = s.mcr ∧
      t.kbsrReady = s.kbsrReady ∧ t.kbsrIe = s.kbsrIe ∧ t.kbdr = s.kbdr ∧ SameHost s t) ∧
    (s.dsrReady = true → s.kbsrReady = true → ∃ t prompt, exec (.trap 0x23) s = .next t ∧
      t.output = s.output ++ prompt ++ [s.kbdr.extractLsb' 0 8] ∧ (t.reg .r0).toNat = s.kbdr.toNat % 256 ∧
      SameRegsBut .r0 s t ∧ t.kbsrReady = false ∧ t.pc = s.pc ∧ t.psr = s.psr ∧ SameSaved s t ∧ SameMemory s t ∧
      t.mcr = s.mcr ∧ t.kbsrIe = s.kbsrIe ∧ t.kbdr = s.kbdr ∧ t.keys = s.keys ∧ t.schedule = s.schedule ∧
      t.params = s.params) ∧
    (s.dsrReady = false → exec (.trap 0x21) s = .next (s.setPc (s.pc - 1)) ∧
      exec (.trap 0x23) s = .next (s.setPc (s.pc - 1))) ∧
    (s.dsrReady = true → s.kbsrReady = false → exec (.trap 0x23) s = .next (s.setPc (s.pc - 1)))

/-- PUTS and PUTSP (R136, R138): of the words from R0 up to the first x0000, PUTS displays bits [7:0] of each, PUTSP
bits [7:0] and then bits [15:8] unless they are x00; registers, PSR, memory and the Saved registers are unchanged. While
DSR[15] = 0 both wait, whatever the string, the TRAP executed again (the model's choice, log 25, and for an empty string
log 42). The spec's decision D15 (log 25, 29); the skipped x00 is U8 (log 27). -/
def Obligations.StringContracts : Prop :=
  ∀ s : State, s.params.osImage = .abstract →
    (∀ ws : List Word, s.dsrReady = true → ws.length < 65536 → (∀ w ∈ ws, w ≠ 0) →
      HoldsWords s (s.reg .r0) (ws ++ [0]) →
      (∃ t, exec (.trap 0x22) s = .next t ∧ t.output = s.output ++ ws.map (fun w => w.extractLsb' 0 8) ∧
        t.regs = s.regs ∧ t.pc = s.pc ∧ t.psr = s.psr ∧ SameSaved s t ∧ SameMemory s t ∧ t.mcr = s.mcr ∧
        t.kbsrReady = s.kbsrReady ∧ t.kbsrIe = s.kbsrIe ∧ t.kbdr = s.kbdr ∧ SameHost s t) ∧
      (∃ t, exec (.trap 0x24) s = .next t ∧ t.output = s.output ++ ws.flatMap (fun w =>
          w.extractLsb' 0 8 :: (if w.extractLsb' 8 8 = 0 then [] else [w.extractLsb' 8 8])) ∧
        t.regs = s.regs ∧ t.pc = s.pc ∧ t.psr = s.psr ∧ SameSaved s t ∧ SameMemory s t ∧ t.mcr = s.mcr ∧
        t.kbsrReady = s.kbsrReady ∧ t.kbsrIe = s.kbsrIe ∧ t.kbdr = s.kbdr ∧ SameHost s t)) ∧
    (s.dsrReady = false → exec (.trap 0x22) s = .next (s.setPc (s.pc - 1)) ∧
      exec (.trap 0x24) s = .next (s.setPc (s.pc - 1)))

/-- HALT (R139): a message of unknown text is displayed and MCR[15] is cleared, the PC is the address after the TRAP and
everything else is as before; while DSR[15] = 0 it waits, the TRAP executed again (the model's choice, log 25); a vector
without a routine is refused (R140). The spec's decision D15 (log 25, 26); the cleared MCR[15] is K6, general knowledge
(log 26). -/
def Obligations.HaltContract : Prop :=
  ∀ s : State, s.params.osImage = .abstract →
    (s.dsrReady = true → ∃ t message, exec (.trap 0x25) s = .next t ∧ t.output = s.output ++ message ∧
      t.clockEnabled = false ∧ (∀ b : Nat, b < 15 → t.mcr.getLsbD b = s.mcr.getLsbD b) ∧ t.regs = s.regs ∧ t.pc = s.pc ∧
      t.psr = s.psr ∧ SameSaved s t ∧ SameMemory s t ∧ t.kbsrReady = s.kbsrReady ∧ t.kbsrIe = s.kbsrIe ∧
      t.kbdr = s.kbdr ∧ t.dsrReady = s.dsrReady ∧ t.ddr = s.ddr ∧ t.keys = s.keys ∧ t.schedule = s.schedule ∧
      t.params = s.params) ∧
    (s.dsrReady = false → exec (.trap 0x25) s = .next (s.setPc (s.pc - 1))) ∧
    (∀ vect : BitVec 8, vect.toNat < 0x20 ∨ 0x25 < vect.toNat → exec (.trap vect) s = .refused .noTrapRoutine)

/- Invariants and whole-machine rules -/

/-- The invariant is kept by every step from every state that has it: memory stays canonical, no word is stored behind a
device register, KBDR[15:8] stays 0. The canonical form is the model's own (log 7); KBDR[15:8] = 0 is the spec's
decision D10. -/
def Obligations.EveryStepKeepsTheInvariant : Prop :=
  ∀ s t : State, s.Inv → step s = .next t → t.Inv

/-- The invariant holds at reset. Of the model's reset values (log 1 to 6). -/
def Obligations.ResetHasTheInvariant : Prop := State.reset.Inv

/-- Every launch of R190 and R45 has the values the spec fixes (MCR = x8000, KBSR[15] = 0, IE = 0, DSR[15] = 1), an empty
output, the host's values everywhere else (KBDR the host's code, zero-extended), and the invariant if its image is
canonical and lies in x0000 to xFDFF. The spec's decisions D1, D10, D11, D12 (log 6); the keys, the schedule and the
parameters as the host's values, and the counter of free values at 0, are the model's (log 8, 12, 13, 14). -/
def Obligations.LaunchFixesTheDeviceState : Prop :=
  ∀ l : Launch,
    (State.launch l).mcr = 0x8000 ∧ (State.launch l).kbsrReady = false ∧ (State.launch l).kbsrIe = false ∧
    (State.launch l).dsrReady = true ∧ (State.launch l).pc = l.pc ∧ (State.launch l).psr = l.psr ∧
    (State.launch l).regs = l.regs ∧ (State.launch l).savedSsp = l.savedSsp ∧ (State.launch l).savedUsp = l.savedUsp ∧
    (State.launch l).mem = l.mem ∧ (State.launch l).output = [] ∧ (State.launch l).kbdr.toNat = l.kbdr.toNat ∧
    (State.launch l).ddr = l.ddr ∧ (State.launch l).keys = l.keys ∧ (State.launch l).schedule = l.schedule ∧
    (State.launch l).params = l.params ∧ (State.launch l).freeCount = 0 ∧
    (l.mem.wf = true → (∀ c ∈ l.mem, c.1 < 0xFE00) → (State.launch l).Inv)

/-- No step changes a parameter, takes back a displayed character, or reorders the host's keys; each takes one entry off
the schedule (R192, R193; the schedule and the parameters are the model's, log 8 and 12). -/
def Obligations.StepsOnlyExtendTheHostsView : Prop :=
  ∀ s t : State, step s = .next t →
    t.params = s.params ∧ s.output <+: t.output ∧ t.keys <:+ s.keys ∧ t.schedule = s.schedule.tail ∧
    s.freeCount ≤ t.freeCount

/-- In Supervisor mode, with PSR_STORE_POLICY = refuse, RTI is the only instruction that can set PSR[15] to 1 (R142,
R170). The parameter is the spec's decision D8 (log 16). -/
def Obligations.OnlyRtiLeavesSupervisorMode : Prop :=
  ∀ (i : Instr) (s t : State), s.userMode = false → s.params.psrStore = .refuse → exec i s = .next t →
    t.userMode = true → i = .rti

/-- From User mode an instruction's `exec` enters Supervisor mode only if it is TRAP, RTI or the reserved opcode, or a
load or store with a privileged address; and a step of the machine does only when the processor takes the keyboard's
interrupt, fetches from a privileged address, or executes such an instruction (R28, R61, R155, R163, R170). An inference from
those rules. The fetch violation is the spec's decision D5 (log 11), the interrupt's sampling D14 (log 37), the word
executed D6 (log 15), whose move it is the model's choice (log 12). -/
def Obligations.UserModeIsLeftOnlyByEntries : Prop :=
  (∀ (i : Instr) (s t : State), s.userMode = true → exec i s = .next t → t.userMode = false →
    isSystem i = true ∨ touchesPrivileged i s = true) ∧
  (∀ s t : State, s.userMode = true → step s = .next t → t.userMode = false →
    turn s = .processor ∧ s.clockEnabled = true ∧
    ((s.kbsrReady = true ∧ s.kbsrIe = true ∧ s.priority.toNat < 4) ∨
      (s.params.fetchAcv = true ∧ privileged s.pc = true) ∨
      ∃ i, decodeUnder s.params.noncanonical (s.word s.pc) = .ok i ∧
        (isSystem i = true ∨ touchesPrivileged i ((takeTurn s).setPc (s.pc + 1)) = true)))

/-- With PSR_STORE_POLICY = refuse no instruction but RTI changes the priority level (R35, R160, R166). The spec's
decisions D8 and D19 (log 16, 37). -/
def Obligations.OnlyRtiChangesThePriority : Prop :=
  ∀ (i : Instr) (s t : State), s.params.psrStore = .refuse → exec i s = .next t → i ≠ .rti →
    t.priority = s.priority

/-- Saved_SSP and Saved_USP are reached only through the two switches (R22 to R25): an instruction that is not TRAP, RTI
or the reserved opcode and takes no ACV leaves both unchanged, a write to R6 too. R25 is the spec's own inference. -/
def Obligations.SavedStackPointersNeedASwitch : Prop :=
  ∀ (i : Instr) (s t : State), isSystem i = false → ¬(s.userMode = true ∧ touchesPrivileged i s = true) →
    exec i s = .next t → SameSaved s t

/-- A User-mode instruction writes no privileged location but the two words an entry pushes below Saved_SSP (R55, R57,
R160), and no device register unless those two lie among them; with OS_IMAGE concrete. An inference from those rules
(log 24). -/
def Obligations.UserModeWritesNoPrivilegedState : Prop :=
  ∀ (i : Instr) (s t : State), s.userMode = true → s.params.osImage = .concrete → exec i s = .next t →
    (∀ a : Word, privileged a = true → a ≠ s.savedSsp - 1 → a ≠ s.savedSsp - 2 → t.word a = s.word a) ∧
    (isDevice (s.savedSsp - 1) = false → isDevice (s.savedSsp - 2) = false → SameDevices s t)

/-- What a User-mode process does is decided by what it can see: from two states alike in registers, PC, PSR,
unprivileged memory and parameters, and different in privileged memory, the devices and the Saved registers, an
instruction that stays in User mode ends alike (R55, R56, R170); with OS_IMAGE concrete and PSR_STORE_POLICY = refuse.
An inference from those rules (log 16, 25). -/
def Obligations.UserModeCannotSeePrivilegedState : Prop :=
  ∀ (i : Instr) (s s' t : State), s.userMode = true → s.params.osImage = .concrete → s.params.psrStore = .refuse →
    s.mem.wf = true → s'.mem.wf = true → UserEqual s s' → exec i s = .next t → t.userMode = true →
    ∃ t', exec i s' = .next t' ∧ UserEqual t t'

/-- A store is seen by the very next fetch (R71): after ST to the address of the next instruction, the processor's next
move executes the word stored. The spec's decision D13 (log 37). -/
def Obligations.StoreIsSeenByTheNextFetch : Prop :=
  ∀ (sr : Reg) (off : BitVec 9) (s t : State) (i : Instr), s.mem.wf = true → pcRelative s off = s.pc →
    exec (.st sr off) s = .next t → Executes t → decode (s.reg sr) = .ok i →
    (s.userMode = false ∨ privileged s.pc = false) →
    step t = exec i ((takeTurn t).setPc (s.pc + 1))

/- The assembler -/

/-- A label's field is the one that makes the hardware's address the label (R94), and it exists exactly when the label
is within the field's range of the incremented PC (R84, R98). The spec's decision D24 (log 36). -/
def Obligations.LabelFieldsReachTheirLabels : Prop :=
  ∀ at_ label : Word,
    (∀ off : BitVec 9, labelField 9 at_ label = some off → at_ + 1 + sext16 off = label) ∧
    (∀ off : BitVec 11, labelField 11 at_ label = some off → at_ + 1 + sext16 off = label) ∧
    (labelField 9 at_ label ≠ none ↔ -256 ≤ (label - (at_ + 1)).toInt ∧ (label - (at_ + 1)).toInt ≤ 255) ∧
    (labelField 11 at_ label ≠ none ↔ -1024 ≤ (label - (at_ + 1)).toInt ∧ (label - (at_ + 1)).toInt ≤ 1023)
end

