-- ==== Sys2Proof/Laws/Decode.lean ====
section
/-! SUPPORT. Registers and their three-bit fields, and the fields of a word put together from parts. -/

namespace Sys2Proof

@[simp] theorem Reg.ofBits_toBits (r : Reg) : Reg.ofBits r.toBits = r := by cases r <;> rfl

@[simp] theorem Reg.toBits_ofBits (b : BitVec 3) : (Reg.ofBits b).toBits = b := by revert b; decide

/-- Two registers with the same field are the same. -/
theorem Reg.toBits_injective {a b : Reg} (h : a.toBits = b.toBits) : a = b := by
  rw [← Reg.ofBits_toBits a, h, Reg.ofBits_toBits]

/-- A field above the low part is a field of the high part. Stated with the width as a variable, so that it rewrites a
word written as BitVec 16. -/
theorem extract_append_high {m n k start len : Nat} (hk : m + n = k) (x : BitVec m) (y : BitVec n) (h : n ≤ start) :
    BitVec.extractLsb' start len (hk ▸ (x ++ y) : BitVec k) = x.extractLsb' (start - n) len := by
  subst hk; exact BitVec.extractLsb'_append_eq_of_le h

/-- A field inside the low part is a field of the low part. -/
theorem extract_append_low {m n k start len : Nat} (hk : m + n = k) (x : BitVec m) (y : BitVec n) (h : start + len ≤ n) :
    BitVec.extractLsb' start len (hk ▸ (x ++ y) : BitVec k) = y.extractLsb' start len := by
  subst hk; exact BitVec.extractLsb'_append_eq_of_add_le h

/-- A bit of a word put together from two parts. -/
theorem getLsbD_append_parts {m n k : Nat} (hk : m + n = k) (x : BitVec m) (y : BitVec n) (b : Nat) :
    BitVec.getLsbD (hk ▸ (x ++ y) : BitVec k) b = if b < n then y.getLsbD b else x.getLsbD (b - n) := by
  subst hk; exact BitVec.getLsbD_append

end Sys2Proof
end

