-- ==== Sys2Proof/Laws/State.lean ====
section
/-! SUPPORT. One lemma per component per update of the state, so that no proof unfolds a record update. -/

namespace Sys2Proof.Machine

@[simp] theorem State.setReg_regs (s : State) (r : Reg) (v : Word) : (s.setReg r v).regs = s.regs.set r v := rfl
@[simp] theorem State.setReg_pc (s : State) (r : Reg) (v : Word) : (s.setReg r v).pc = s.pc := rfl
@[simp] theorem State.setReg_psr (s : State) (r : Reg) (v : Word) : (s.setReg r v).psr = s.psr := rfl
@[simp] theorem State.setReg_savedSsp (s : State) (r : Reg) (v : Word) : (s.setReg r v).savedSsp = s.savedSsp := rfl
@[simp] theorem State.setReg_savedUsp (s : State) (r : Reg) (v : Word) : (s.setReg r v).savedUsp = s.savedUsp := rfl
@[simp] theorem State.setReg_mem (s : State) (r : Reg) (v : Word) : (s.setReg r v).mem = s.mem := rfl
@[simp] theorem State.setReg_mcr (s : State) (r : Reg) (v : Word) : (s.setReg r v).mcr = s.mcr := rfl
@[simp] theorem State.setReg_kbsrReady (s : State) (r : Reg) (v : Word) : (s.setReg r v).kbsrReady = s.kbsrReady := rfl
@[simp] theorem State.setReg_kbsrIe (s : State) (r : Reg) (v : Word) : (s.setReg r v).kbsrIe = s.kbsrIe := rfl
@[simp] theorem State.setReg_kbdr (s : State) (r : Reg) (v : Word) : (s.setReg r v).kbdr = s.kbdr := rfl
@[simp] theorem State.setReg_dsrReady (s : State) (r : Reg) (v : Word) : (s.setReg r v).dsrReady = s.dsrReady := rfl
@[simp] theorem State.setReg_ddr (s : State) (r : Reg) (v : Word) : (s.setReg r v).ddr = s.ddr := rfl
@[simp] theorem State.setReg_output (s : State) (r : Reg) (v : Word) : (s.setReg r v).output = s.output := rfl
@[simp] theorem State.setReg_keys (s : State) (r : Reg) (v : Word) : (s.setReg r v).keys = s.keys := rfl
@[simp] theorem State.setReg_schedule (s : State) (r : Reg) (v : Word) : (s.setReg r v).schedule = s.schedule := rfl
@[simp] theorem State.setReg_params (s : State) (r : Reg) (v : Word) : (s.setReg r v).params = s.params := rfl
@[simp] theorem State.setReg_freeCount (s : State) (r : Reg) (v : Word) : (s.setReg r v).freeCount = s.freeCount := rfl
@[simp] theorem State.setReg_word (s : State) (r : Reg) (v : Word) (x : Word) : (s.setReg r v).word x = s.word x := rfl
@[simp] theorem State.setReg_userMode (s : State) (r : Reg) (v : Word) : (s.setReg r v).userMode = s.userMode := rfl
@[simp] theorem State.setReg_priority (s : State) (r : Reg) (v : Word) : (s.setReg r v).priority = s.priority := rfl
@[simp] theorem State.setReg_flagN (s : State) (r : Reg) (v : Word) : (s.setReg r v).flagN = s.flagN := rfl
@[simp] theorem State.setReg_flagZ (s : State) (r : Reg) (v : Word) : (s.setReg r v).flagZ = s.flagZ := rfl
@[simp] theorem State.setReg_flagP (s : State) (r : Reg) (v : Word) : (s.setReg r v).flagP = s.flagP := rfl
@[simp] theorem State.setReg_clockEnabled (s : State) (r : Reg) (v : Word) : (s.setReg r v).clockEnabled = s.clockEnabled := rfl

@[simp] theorem State.setPc_regs (s : State) (v : Word) : (s.setPc v).regs = s.regs := rfl
@[simp] theorem State.setPc_pc (s : State) (v : Word) : (s.setPc v).pc = v := rfl
@[simp] theorem State.setPc_psr (s : State) (v : Word) : (s.setPc v).psr = s.psr := rfl
@[simp] theorem State.setPc_savedSsp (s : State) (v : Word) : (s.setPc v).savedSsp = s.savedSsp := rfl
@[simp] theorem State.setPc_savedUsp (s : State) (v : Word) : (s.setPc v).savedUsp = s.savedUsp := rfl
@[simp] theorem State.setPc_mem (s : State) (v : Word) : (s.setPc v).mem = s.mem := rfl
@[simp] theorem State.setPc_mcr (s : State) (v : Word) : (s.setPc v).mcr = s.mcr := rfl
@[simp] theorem State.setPc_kbsrReady (s : State) (v : Word) : (s.setPc v).kbsrReady = s.kbsrReady := rfl
@[simp] theorem State.setPc_kbsrIe (s : State) (v : Word) : (s.setPc v).kbsrIe = s.kbsrIe := rfl
@[simp] theorem State.setPc_kbdr (s : State) (v : Word) : (s.setPc v).kbdr = s.kbdr := rfl
@[simp] theorem State.setPc_dsrReady (s : State) (v : Word) : (s.setPc v).dsrReady = s.dsrReady := rfl
@[simp] theorem State.setPc_ddr (s : State) (v : Word) : (s.setPc v).ddr = s.ddr := rfl
@[simp] theorem State.setPc_output (s : State) (v : Word) : (s.setPc v).output = s.output := rfl
@[simp] theorem State.setPc_keys (s : State) (v : Word) : (s.setPc v).keys = s.keys := rfl
@[simp] theorem State.setPc_schedule (s : State) (v : Word) : (s.setPc v).schedule = s.schedule := rfl
@[simp] theorem State.setPc_params (s : State) (v : Word) : (s.setPc v).params = s.params := rfl
@[simp] theorem State.setPc_freeCount (s : State) (v : Word) : (s.setPc v).freeCount = s.freeCount := rfl
@[simp] theorem State.setPc_reg (s : State) (v : Word) (q : Reg) : (s.setPc v).reg q = s.reg q := rfl
@[simp] theorem State.setPc_word (s : State) (v : Word) (x : Word) : (s.setPc v).word x = s.word x := rfl
@[simp] theorem State.setPc_userMode (s : State) (v : Word) : (s.setPc v).userMode = s.userMode := rfl
@[simp] theorem State.setPc_priority (s : State) (v : Word) : (s.setPc v).priority = s.priority := rfl
@[simp] theorem State.setPc_flagN (s : State) (v : Word) : (s.setPc v).flagN = s.flagN := rfl
@[simp] theorem State.setPc_flagZ (s : State) (v : Word) : (s.setPc v).flagZ = s.flagZ := rfl
@[simp] theorem State.setPc_flagP (s : State) (v : Word) : (s.setPc v).flagP = s.flagP := rfl
@[simp] theorem State.setPc_clockEnabled (s : State) (v : Word) : (s.setPc v).clockEnabled = s.clockEnabled := rfl

@[simp] theorem State.setPsr_regs (s : State) (v : Word) : (s.setPsr v).regs = s.regs := rfl
@[simp] theorem State.setPsr_pc (s : State) (v : Word) : (s.setPsr v).pc = s.pc := rfl
@[simp] theorem State.setPsr_psr (s : State) (v : Word) : (s.setPsr v).psr = v := rfl
@[simp] theorem State.setPsr_savedSsp (s : State) (v : Word) : (s.setPsr v).savedSsp = s.savedSsp := rfl
@[simp] theorem State.setPsr_savedUsp (s : State) (v : Word) : (s.setPsr v).savedUsp = s.savedUsp := rfl
@[simp] theorem State.setPsr_mem (s : State) (v : Word) : (s.setPsr v).mem = s.mem := rfl
@[simp] theorem State.setPsr_mcr (s : State) (v : Word) : (s.setPsr v).mcr = s.mcr := rfl
@[simp] theorem State.setPsr_kbsrReady (s : State) (v : Word) : (s.setPsr v).kbsrReady = s.kbsrReady := rfl
@[simp] theorem State.setPsr_kbsrIe (s : State) (v : Word) : (s.setPsr v).kbsrIe = s.kbsrIe := rfl
@[simp] theorem State.setPsr_kbdr (s : State) (v : Word) : (s.setPsr v).kbdr = s.kbdr := rfl
@[simp] theorem State.setPsr_dsrReady (s : State) (v : Word) : (s.setPsr v).dsrReady = s.dsrReady := rfl
@[simp] theorem State.setPsr_ddr (s : State) (v : Word) : (s.setPsr v).ddr = s.ddr := rfl
@[simp] theorem State.setPsr_output (s : State) (v : Word) : (s.setPsr v).output = s.output := rfl
@[simp] theorem State.setPsr_keys (s : State) (v : Word) : (s.setPsr v).keys = s.keys := rfl
@[simp] theorem State.setPsr_schedule (s : State) (v : Word) : (s.setPsr v).schedule = s.schedule := rfl
@[simp] theorem State.setPsr_params (s : State) (v : Word) : (s.setPsr v).params = s.params := rfl
@[simp] theorem State.setPsr_freeCount (s : State) (v : Word) : (s.setPsr v).freeCount = s.freeCount := rfl
@[simp] theorem State.setPsr_reg (s : State) (v : Word) (q : Reg) : (s.setPsr v).reg q = s.reg q := rfl
@[simp] theorem State.setPsr_word (s : State) (v : Word) (x : Word) : (s.setPsr v).word x = s.word x := rfl
@[simp] theorem State.setPsr_clockEnabled (s : State) (v : Word) : (s.setPsr v).clockEnabled = s.clockEnabled := rfl

@[simp] theorem State.setSavedSsp_regs (s : State) (v : Word) : (s.setSavedSsp v).regs = s.regs := rfl
@[simp] theorem State.setSavedSsp_pc (s : State) (v : Word) : (s.setSavedSsp v).pc = s.pc := rfl
@[simp] theorem State.setSavedSsp_psr (s : State) (v : Word) : (s.setSavedSsp v).psr = s.psr := rfl
@[simp] theorem State.setSavedSsp_savedSsp (s : State) (v : Word) : (s.setSavedSsp v).savedSsp = v := rfl
@[simp] theorem State.setSavedSsp_savedUsp (s : State) (v : Word) : (s.setSavedSsp v).savedUsp = s.savedUsp := rfl
@[simp] theorem State.setSavedSsp_mem (s : State) (v : Word) : (s.setSavedSsp v).mem = s.mem := rfl
@[simp] theorem State.setSavedSsp_mcr (s : State) (v : Word) : (s.setSavedSsp v).mcr = s.mcr := rfl
@[simp] theorem State.setSavedSsp_kbsrReady (s : State) (v : Word) : (s.setSavedSsp v).kbsrReady = s.kbsrReady := rfl
@[simp] theorem State.setSavedSsp_kbsrIe (s : State) (v : Word) : (s.setSavedSsp v).kbsrIe = s.kbsrIe := rfl
@[simp] theorem State.setSavedSsp_kbdr (s : State) (v : Word) : (s.setSavedSsp v).kbdr = s.kbdr := rfl
@[simp] theorem State.setSavedSsp_dsrReady (s : State) (v : Word) : (s.setSavedSsp v).dsrReady = s.dsrReady := rfl
@[simp] theorem State.setSavedSsp_ddr (s : State) (v : Word) : (s.setSavedSsp v).ddr = s.ddr := rfl
@[simp] theorem State.setSavedSsp_output (s : State) (v : Word) : (s.setSavedSsp v).output = s.output := rfl
@[simp] theorem State.setSavedSsp_keys (s : State) (v : Word) : (s.setSavedSsp v).keys = s.keys := rfl
@[simp] theorem State.setSavedSsp_schedule (s : State) (v : Word) : (s.setSavedSsp v).schedule = s.schedule := rfl
@[simp] theorem State.setSavedSsp_params (s : State) (v : Word) : (s.setSavedSsp v).params = s.params := rfl
@[simp] theorem State.setSavedSsp_freeCount (s : State) (v : Word) : (s.setSavedSsp v).freeCount = s.freeCount := rfl
@[simp] theorem State.setSavedSsp_reg (s : State) (v : Word) (q : Reg) : (s.setSavedSsp v).reg q = s.reg q := rfl
@[simp] theorem State.setSavedSsp_word (s : State) (v : Word) (x : Word) : (s.setSavedSsp v).word x = s.word x := rfl
@[simp] theorem State.setSavedSsp_userMode (s : State) (v : Word) : (s.setSavedSsp v).userMode = s.userMode := rfl
@[simp] theorem State.setSavedSsp_priority (s : State) (v : Word) : (s.setSavedSsp v).priority = s.priority := rfl
@[simp] theorem State.setSavedSsp_flagN (s : State) (v : Word) : (s.setSavedSsp v).flagN = s.flagN := rfl
@[simp] theorem State.setSavedSsp_flagZ (s : State) (v : Word) : (s.setSavedSsp v).flagZ = s.flagZ := rfl
@[simp] theorem State.setSavedSsp_flagP (s : State) (v : Word) : (s.setSavedSsp v).flagP = s.flagP := rfl
@[simp] theorem State.setSavedSsp_clockEnabled (s : State) (v : Word) : (s.setSavedSsp v).clockEnabled = s.clockEnabled := rfl

@[simp] theorem State.setSavedUsp_regs (s : State) (v : Word) : (s.setSavedUsp v).regs = s.regs := rfl
@[simp] theorem State.setSavedUsp_pc (s : State) (v : Word) : (s.setSavedUsp v).pc = s.pc := rfl
@[simp] theorem State.setSavedUsp_psr (s : State) (v : Word) : (s.setSavedUsp v).psr = s.psr := rfl
@[simp] theorem State.setSavedUsp_savedSsp (s : State) (v : Word) : (s.setSavedUsp v).savedSsp = s.savedSsp := rfl
@[simp] theorem State.setSavedUsp_savedUsp (s : State) (v : Word) : (s.setSavedUsp v).savedUsp = v := rfl
@[simp] theorem State.setSavedUsp_mem (s : State) (v : Word) : (s.setSavedUsp v).mem = s.mem := rfl
@[simp] theorem State.setSavedUsp_mcr (s : State) (v : Word) : (s.setSavedUsp v).mcr = s.mcr := rfl
@[simp] theorem State.setSavedUsp_kbsrReady (s : State) (v : Word) : (s.setSavedUsp v).kbsrReady = s.kbsrReady := rfl
@[simp] theorem State.setSavedUsp_kbsrIe (s : State) (v : Word) : (s.setSavedUsp v).kbsrIe = s.kbsrIe := rfl
@[simp] theorem State.setSavedUsp_kbdr (s : State) (v : Word) : (s.setSavedUsp v).kbdr = s.kbdr := rfl
@[simp] theorem State.setSavedUsp_dsrReady (s : State) (v : Word) : (s.setSavedUsp v).dsrReady = s.dsrReady := rfl
@[simp] theorem State.setSavedUsp_ddr (s : State) (v : Word) : (s.setSavedUsp v).ddr = s.ddr := rfl
@[simp] theorem State.setSavedUsp_output (s : State) (v : Word) : (s.setSavedUsp v).output = s.output := rfl
@[simp] theorem State.setSavedUsp_keys (s : State) (v : Word) : (s.setSavedUsp v).keys = s.keys := rfl
@[simp] theorem State.setSavedUsp_schedule (s : State) (v : Word) : (s.setSavedUsp v).schedule = s.schedule := rfl
@[simp] theorem State.setSavedUsp_params (s : State) (v : Word) : (s.setSavedUsp v).params = s.params := rfl
@[simp] theorem State.setSavedUsp_freeCount (s : State) (v : Word) : (s.setSavedUsp v).freeCount = s.freeCount := rfl
@[simp] theorem State.setSavedUsp_reg (s : State) (v : Word) (q : Reg) : (s.setSavedUsp v).reg q = s.reg q := rfl
@[simp] theorem State.setSavedUsp_word (s : State) (v : Word) (x : Word) : (s.setSavedUsp v).word x = s.word x := rfl
@[simp] theorem State.setSavedUsp_userMode (s : State) (v : Word) : (s.setSavedUsp v).userMode = s.userMode := rfl
@[simp] theorem State.setSavedUsp_priority (s : State) (v : Word) : (s.setSavedUsp v).priority = s.priority := rfl
@[simp] theorem State.setSavedUsp_flagN (s : State) (v : Word) : (s.setSavedUsp v).flagN = s.flagN := rfl
@[simp] theorem State.setSavedUsp_flagZ (s : State) (v : Word) : (s.setSavedUsp v).flagZ = s.flagZ := rfl
@[simp] theorem State.setSavedUsp_flagP (s : State) (v : Word) : (s.setSavedUsp v).flagP = s.flagP := rfl
@[simp] theorem State.setSavedUsp_clockEnabled (s : State) (v : Word) : (s.setSavedUsp v).clockEnabled = s.clockEnabled := rfl

@[simp] theorem State.setMem_regs (s : State) (m : Memory) : (s.setMem m).regs = s.regs := rfl
@[simp] theorem State.setMem_pc (s : State) (m : Memory) : (s.setMem m).pc = s.pc := rfl
@[simp] theorem State.setMem_psr (s : State) (m : Memory) : (s.setMem m).psr = s.psr := rfl
@[simp] theorem State.setMem_savedSsp (s : State) (m : Memory) : (s.setMem m).savedSsp = s.savedSsp := rfl
@[simp] theorem State.setMem_savedUsp (s : State) (m : Memory) : (s.setMem m).savedUsp = s.savedUsp := rfl
@[simp] theorem State.setMem_mem (s : State) (m : Memory) : (s.setMem m).mem = m := rfl
@[simp] theorem State.setMem_mcr (s : State) (m : Memory) : (s.setMem m).mcr = s.mcr := rfl
@[simp] theorem State.setMem_kbsrReady (s : State) (m : Memory) : (s.setMem m).kbsrReady = s.kbsrReady := rfl
@[simp] theorem State.setMem_kbsrIe (s : State) (m : Memory) : (s.setMem m).kbsrIe = s.kbsrIe := rfl
@[simp] theorem State.setMem_kbdr (s : State) (m : Memory) : (s.setMem m).kbdr = s.kbdr := rfl
@[simp] theorem State.setMem_dsrReady (s : State) (m : Memory) : (s.setMem m).dsrReady = s.dsrReady := rfl
@[simp] theorem State.setMem_ddr (s : State) (m : Memory) : (s.setMem m).ddr = s.ddr := rfl
@[simp] theorem State.setMem_output (s : State) (m : Memory) : (s.setMem m).output = s.output := rfl
@[simp] theorem State.setMem_keys (s : State) (m : Memory) : (s.setMem m).keys = s.keys := rfl
@[simp] theorem State.setMem_schedule (s : State) (m : Memory) : (s.setMem m).schedule = s.schedule := rfl
@[simp] theorem State.setMem_params (s : State) (m : Memory) : (s.setMem m).params = s.params := rfl
@[simp] theorem State.setMem_freeCount (s : State) (m : Memory) : (s.setMem m).freeCount = s.freeCount := rfl
@[simp] theorem State.setMem_reg (s : State) (m : Memory) (q : Reg) : (s.setMem m).reg q = s.reg q := rfl
@[simp] theorem State.setMem_userMode (s : State) (m : Memory) : (s.setMem m).userMode = s.userMode := rfl
@[simp] theorem State.setMem_priority (s : State) (m : Memory) : (s.setMem m).priority = s.priority := rfl
@[simp] theorem State.setMem_flagN (s : State) (m : Memory) : (s.setMem m).flagN = s.flagN := rfl
@[simp] theorem State.setMem_flagZ (s : State) (m : Memory) : (s.setMem m).flagZ = s.flagZ := rfl
@[simp] theorem State.setMem_flagP (s : State) (m : Memory) : (s.setMem m).flagP = s.flagP := rfl
@[simp] theorem State.setMem_clockEnabled (s : State) (m : Memory) : (s.setMem m).clockEnabled = s.clockEnabled := rfl

@[simp] theorem State.setMcr_regs (s : State) (v : Word) : (s.setMcr v).regs = s.regs := rfl
@[simp] theorem State.setMcr_pc (s : State) (v : Word) : (s.setMcr v).pc = s.pc := rfl
@[simp] theorem State.setMcr_psr (s : State) (v : Word) : (s.setMcr v).psr = s.psr := rfl
@[simp] theorem State.setMcr_savedSsp (s : State) (v : Word) : (s.setMcr v).savedSsp = s.savedSsp := rfl
@[simp] theorem State.setMcr_savedUsp (s : State) (v : Word) : (s.setMcr v).savedUsp = s.savedUsp := rfl
@[simp] theorem State.setMcr_mem (s : State) (v : Word) : (s.setMcr v).mem = s.mem := rfl
@[simp] theorem State.setMcr_mcr (s : State) (v : Word) : (s.setMcr v).mcr = v := rfl
@[simp] theorem State.setMcr_kbsrReady (s : State) (v : Word) : (s.setMcr v).kbsrReady = s.kbsrReady := rfl
@[simp] theorem State.setMcr_kbsrIe (s : State) (v : Word) : (s.setMcr v).kbsrIe = s.kbsrIe := rfl
@[simp] theorem State.setMcr_kbdr (s : State) (v : Word) : (s.setMcr v).kbdr = s.kbdr := rfl
@[simp] theorem State.setMcr_dsrReady (s : State) (v : Word) : (s.setMcr v).dsrReady = s.dsrReady := rfl
@[simp] theorem State.setMcr_ddr (s : State) (v : Word) : (s.setMcr v).ddr = s.ddr := rfl
@[simp] theorem State.setMcr_output (s : State) (v : Word) : (s.setMcr v).output = s.output := rfl
@[simp] theorem State.setMcr_keys (s : State) (v : Word) : (s.setMcr v).keys = s.keys := rfl
@[simp] theorem State.setMcr_schedule (s : State) (v : Word) : (s.setMcr v).schedule = s.schedule := rfl
@[simp] theorem State.setMcr_params (s : State) (v : Word) : (s.setMcr v).params = s.params := rfl
@[simp] theorem State.setMcr_freeCount (s : State) (v : Word) : (s.setMcr v).freeCount = s.freeCount := rfl
@[simp] theorem State.setMcr_reg (s : State) (v : Word) (q : Reg) : (s.setMcr v).reg q = s.reg q := rfl
@[simp] theorem State.setMcr_word (s : State) (v : Word) (x : Word) : (s.setMcr v).word x = s.word x := rfl
@[simp] theorem State.setMcr_userMode (s : State) (v : Word) : (s.setMcr v).userMode = s.userMode := rfl
@[simp] theorem State.setMcr_priority (s : State) (v : Word) : (s.setMcr v).priority = s.priority := rfl
@[simp] theorem State.setMcr_flagN (s : State) (v : Word) : (s.setMcr v).flagN = s.flagN := rfl
@[simp] theorem State.setMcr_flagZ (s : State) (v : Word) : (s.setMcr v).flagZ = s.flagZ := rfl
@[simp] theorem State.setMcr_flagP (s : State) (v : Word) : (s.setMcr v).flagP = s.flagP := rfl

@[simp] theorem State.setKbsrReady_regs (s : State) (b : Bool) : (s.setKbsrReady b).regs = s.regs := rfl
@[simp] theorem State.setKbsrReady_pc (s : State) (b : Bool) : (s.setKbsrReady b).pc = s.pc := rfl
@[simp] theorem State.setKbsrReady_psr (s : State) (b : Bool) : (s.setKbsrReady b).psr = s.psr := rfl
@[simp] theorem State.setKbsrReady_savedSsp (s : State) (b : Bool) : (s.setKbsrReady b).savedSsp = s.savedSsp := rfl
@[simp] theorem State.setKbsrReady_savedUsp (s : State) (b : Bool) : (s.setKbsrReady b).savedUsp = s.savedUsp := rfl
@[simp] theorem State.setKbsrReady_mem (s : State) (b : Bool) : (s.setKbsrReady b).mem = s.mem := rfl
@[simp] theorem State.setKbsrReady_mcr (s : State) (b : Bool) : (s.setKbsrReady b).mcr = s.mcr := rfl
@[simp] theorem State.setKbsrReady_kbsrReady (s : State) (b : Bool) : (s.setKbsrReady b).kbsrReady = b := rfl
@[simp] theorem State.setKbsrReady_kbsrIe (s : State) (b : Bool) : (s.setKbsrReady b).kbsrIe = s.kbsrIe := rfl
@[simp] theorem State.setKbsrReady_kbdr (s : State) (b : Bool) : (s.setKbsrReady b).kbdr = s.kbdr := rfl
@[simp] theorem State.setKbsrReady_dsrReady (s : State) (b : Bool) : (s.setKbsrReady b).dsrReady = s.dsrReady := rfl
@[simp] theorem State.setKbsrReady_ddr (s : State) (b : Bool) : (s.setKbsrReady b).ddr = s.ddr := rfl
@[simp] theorem State.setKbsrReady_output (s : State) (b : Bool) : (s.setKbsrReady b).output = s.output := rfl
@[simp] theorem State.setKbsrReady_keys (s : State) (b : Bool) : (s.setKbsrReady b).keys = s.keys := rfl
@[simp] theorem State.setKbsrReady_schedule (s : State) (b : Bool) : (s.setKbsrReady b).schedule = s.schedule := rfl
@[simp] theorem State.setKbsrReady_params (s : State) (b : Bool) : (s.setKbsrReady b).params = s.params := rfl
@[simp] theorem State.setKbsrReady_freeCount (s : State) (b : Bool) : (s.setKbsrReady b).freeCount = s.freeCount := rfl
@[simp] theorem State.setKbsrReady_reg (s : State) (b : Bool) (q : Reg) : (s.setKbsrReady b).reg q = s.reg q := rfl
@[simp] theorem State.setKbsrReady_word (s : State) (b : Bool) (x : Word) : (s.setKbsrReady b).word x = s.word x := rfl
@[simp] theorem State.setKbsrReady_userMode (s : State) (b : Bool) : (s.setKbsrReady b).userMode = s.userMode := rfl
@[simp] theorem State.setKbsrReady_priority (s : State) (b : Bool) : (s.setKbsrReady b).priority = s.priority := rfl
@[simp] theorem State.setKbsrReady_flagN (s : State) (b : Bool) : (s.setKbsrReady b).flagN = s.flagN := rfl
@[simp] theorem State.setKbsrReady_flagZ (s : State) (b : Bool) : (s.setKbsrReady b).flagZ = s.flagZ := rfl
@[simp] theorem State.setKbsrReady_flagP (s : State) (b : Bool) : (s.setKbsrReady b).flagP = s.flagP := rfl
@[simp] theorem State.setKbsrReady_clockEnabled (s : State) (b : Bool) : (s.setKbsrReady b).clockEnabled = s.clockEnabled := rfl

@[simp] theorem State.setKbsrIe_regs (s : State) (b : Bool) : (s.setKbsrIe b).regs = s.regs := rfl
@[simp] theorem State.setKbsrIe_pc (s : State) (b : Bool) : (s.setKbsrIe b).pc = s.pc := rfl
@[simp] theorem State.setKbsrIe_psr (s : State) (b : Bool) : (s.setKbsrIe b).psr = s.psr := rfl
@[simp] theorem State.setKbsrIe_savedSsp (s : State) (b : Bool) : (s.setKbsrIe b).savedSsp = s.savedSsp := rfl
@[simp] theorem State.setKbsrIe_savedUsp (s : State) (b : Bool) : (s.setKbsrIe b).savedUsp = s.savedUsp := rfl
@[simp] theorem State.setKbsrIe_mem (s : State) (b : Bool) : (s.setKbsrIe b).mem = s.mem := rfl
@[simp] theorem State.setKbsrIe_mcr (s : State) (b : Bool) : (s.setKbsrIe b).mcr = s.mcr := rfl
@[simp] theorem State.setKbsrIe_kbsrReady (s : State) (b : Bool) : (s.setKbsrIe b).kbsrReady = s.kbsrReady := rfl
@[simp] theorem State.setKbsrIe_kbsrIe (s : State) (b : Bool) : (s.setKbsrIe b).kbsrIe = b := rfl
@[simp] theorem State.setKbsrIe_kbdr (s : State) (b : Bool) : (s.setKbsrIe b).kbdr = s.kbdr := rfl
@[simp] theorem State.setKbsrIe_dsrReady (s : State) (b : Bool) : (s.setKbsrIe b).dsrReady = s.dsrReady := rfl
@[simp] theorem State.setKbsrIe_ddr (s : State) (b : Bool) : (s.setKbsrIe b).ddr = s.ddr := rfl
@[simp] theorem State.setKbsrIe_output (s : State) (b : Bool) : (s.setKbsrIe b).output = s.output := rfl
@[simp] theorem State.setKbsrIe_keys (s : State) (b : Bool) : (s.setKbsrIe b).keys = s.keys := rfl
@[simp] theorem State.setKbsrIe_schedule (s : State) (b : Bool) : (s.setKbsrIe b).schedule = s.schedule := rfl
@[simp] theorem State.setKbsrIe_params (s : State) (b : Bool) : (s.setKbsrIe b).params = s.params := rfl
@[simp] theorem State.setKbsrIe_freeCount (s : State) (b : Bool) : (s.setKbsrIe b).freeCount = s.freeCount := rfl
@[simp] theorem State.setKbsrIe_reg (s : State) (b : Bool) (q : Reg) : (s.setKbsrIe b).reg q = s.reg q := rfl
@[simp] theorem State.setKbsrIe_word (s : State) (b : Bool) (x : Word) : (s.setKbsrIe b).word x = s.word x := rfl
@[simp] theorem State.setKbsrIe_userMode (s : State) (b : Bool) : (s.setKbsrIe b).userMode = s.userMode := rfl
@[simp] theorem State.setKbsrIe_priority (s : State) (b : Bool) : (s.setKbsrIe b).priority = s.priority := rfl
@[simp] theorem State.setKbsrIe_flagN (s : State) (b : Bool) : (s.setKbsrIe b).flagN = s.flagN := rfl
@[simp] theorem State.setKbsrIe_flagZ (s : State) (b : Bool) : (s.setKbsrIe b).flagZ = s.flagZ := rfl
@[simp] theorem State.setKbsrIe_flagP (s : State) (b : Bool) : (s.setKbsrIe b).flagP = s.flagP := rfl
@[simp] theorem State.setKbsrIe_clockEnabled (s : State) (b : Bool) : (s.setKbsrIe b).clockEnabled = s.clockEnabled := rfl

@[simp] theorem State.draw_regs (s : State) : (s.draw).regs = s.regs := rfl
@[simp] theorem State.draw_pc (s : State) : (s.draw).pc = s.pc := rfl
@[simp] theorem State.draw_psr (s : State) : (s.draw).psr = s.psr := rfl
@[simp] theorem State.draw_savedSsp (s : State) : (s.draw).savedSsp = s.savedSsp := rfl
@[simp] theorem State.draw_savedUsp (s : State) : (s.draw).savedUsp = s.savedUsp := rfl
@[simp] theorem State.draw_mem (s : State) : (s.draw).mem = s.mem := rfl
@[simp] theorem State.draw_mcr (s : State) : (s.draw).mcr = s.mcr := rfl
@[simp] theorem State.draw_kbsrReady (s : State) : (s.draw).kbsrReady = s.kbsrReady := rfl
@[simp] theorem State.draw_kbsrIe (s : State) : (s.draw).kbsrIe = s.kbsrIe := rfl
@[simp] theorem State.draw_kbdr (s : State) : (s.draw).kbdr = s.kbdr := rfl
@[simp] theorem State.draw_dsrReady (s : State) : (s.draw).dsrReady = s.dsrReady := rfl
@[simp] theorem State.draw_ddr (s : State) : (s.draw).ddr = s.ddr := rfl
@[simp] theorem State.draw_output (s : State) : (s.draw).output = s.output := rfl
@[simp] theorem State.draw_keys (s : State) : (s.draw).keys = s.keys := rfl
@[simp] theorem State.draw_schedule (s : State) : (s.draw).schedule = s.schedule := rfl
@[simp] theorem State.draw_params (s : State) : (s.draw).params = s.params := rfl
@[simp] theorem State.draw_freeCount (s : State) : (s.draw).freeCount = s.freeCount + 1 := rfl
@[simp] theorem State.draw_reg (s : State) (q : Reg) : (s.draw).reg q = s.reg q := rfl
@[simp] theorem State.draw_word (s : State) (x : Word) : (s.draw).word x = s.word x := rfl
@[simp] theorem State.draw_userMode (s : State) : (s.draw).userMode = s.userMode := rfl
@[simp] theorem State.draw_priority (s : State) : (s.draw).priority = s.priority := rfl
@[simp] theorem State.draw_flagN (s : State) : (s.draw).flagN = s.flagN := rfl
@[simp] theorem State.draw_flagZ (s : State) : (s.draw).flagZ = s.flagZ := rfl
@[simp] theorem State.draw_flagP (s : State) : (s.draw).flagP = s.flagP := rfl
@[simp] theorem State.draw_clockEnabled (s : State) : (s.draw).clockEnabled = s.clockEnabled := rfl

/-- Reading a register after a write of a register. -/
@[simp] theorem Regs.get_set (g : Regs) (r q : Reg) (v : Word) : (g.set r v).get q = if q = r then v else g.get q := by
  cases r <;> cases q <;> rfl

/-- Writing a register twice. -/
@[simp] theorem Regs.set_set (g : Regs) (r : Reg) (v w : Word) : (g.set r v).set r w = g.set r w := by
  cases r <;> rfl

@[simp] theorem State.setReg_reg (s : State) (r q : Reg) (v : Word) :
    (s.setReg r v).reg q = if q = r then v else s.reg q :=
  Regs.get_set s.regs r q v

theorem State.setPsr_userMode (s : State) (v : Word) : (s.setPsr v).userMode = v.getLsbD 15 := rfl

theorem State.setMem_word (s : State) (m : Memory) (x : Word) : (s.setMem m).word x = m.read x.toNat := rfl

/-- Two register files with the same registers are the same. -/
theorem Regs.ext_get {g h : Regs} (e : ∀ r, g.get r = h.get r) : g = h := by
  cases g; cases h
  simp only [Regs.mk.injEq]
  exact ⟨e .r0, e .r1, e .r2, e .r3, e .r4, e .r5, e .r6, e .r7⟩

end Sys2Proof.Machine
end

