-- ==== Sys2Proof/Laws/Flags.lean ====
section
/-! SUPPORT. The fields of the PSR bit by bit, the condition codes as signs, the extensions as numbers, and what the
shared ending of the operate instructions and loads does. -/

namespace Sys2Proof.Machine

/-- Writing the codes changes bits 2 to 0 and no other. -/
theorem Psr.withCC_bit (p : Word) (cc : BitVec 3) (b : Nat) :
    (Psr.withCC p cc).getLsbD b = if b < 3 then cc.getLsbD b else p.getLsbD b := by
  refine (BitVec.getLsbD_append (x := p.extractLsb' 3 13) (y := cc) (i := b)).trans ?_
  split
  · rfl
  · by_cases h : b < 16
    · simp only [BitVec.getLsbD_extractLsb', show 3 + (b - 3) = b by omega, show b - 3 < 13 by omega, decide_true,
        Bool.true_and]
    · rw [BitVec.getLsbD_of_ge p b (by omega), BitVec.getLsbD_of_ge _ _ (by omega)]

/-- Writing the priority changes bits 10 to 8 and no other. -/
theorem Psr.withPriority_bit (p : Word) (l : BitVec 3) (b : Nat) :
    (Psr.withPriority p l).getLsbD b = if 8 ≤ b ∧ b < 11 then l.getLsbD (b - 8) else p.getLsbD b := by
  refine (BitVec.getLsbD_append (x := p.extractLsb' 11 5 ++ l) (y := p.extractLsb' 0 8) (i := b)).trans ?_
  rw [BitVec.getLsbD_append]
  simp only [BitVec.getLsbD_extractLsb', Nat.zero_add]
  by_cases h1 : b < 8
  · simp [h1, show ¬(8 ≤ b) by omega]
  · by_cases h2 : b < 11
    · simp [h1, show b - 8 < 3 by omega, show 8 ≤ b by omega, h2]
    · by_cases h3 : b < 16
      · simp only [h1, if_false, show ¬(b - 8 < 3) by omega, show b - 8 - 3 < 5 by omega, decide_true, Bool.true_and,
          show 11 + (b - 8 - 3) = b by omega, show ¬(8 ≤ b ∧ b < 11) by omega]
      · simp only [h1, if_false, show ¬(b - 8 < 3) by omega, show ¬(b - 8 - 3 < 5) by omega, decide_false,
          Bool.false_and, show ¬(8 ≤ b ∧ b < 11) by omega]
        rw [BitVec.getLsbD_of_ge p b (by omega)]

/-- Entering Supervisor mode clears bit 15 and changes no other. -/
theorem Psr.supervisor_bit (p : Word) (b : Nat) :
    (Psr.supervisor p).getLsbD b = (decide (b ≠ 15) && p.getLsbD b) := by
  refine (BitVec.getLsbD_append (x := 0#1) (y := p.extractLsb' 0 15) (i := b)).trans ?_
  simp only [BitVec.getLsbD_extractLsb', Nat.zero_add]
  by_cases h1 : b < 15
  · simp [h1, show b ≠ 15 by omega]
  · by_cases h2 : b = 15
    · subst h2; simp
    · rw [BitVec.getLsbD_of_ge p b (by omega)]
      simp [h1]

/-- A word is zero exactly when the integer it stands for is. -/
theorem Word.eq_zero_iff (v : Word) : v = 0 ↔ v.toInt = 0 := by
  rw [← BitVec.toInt_inj]; rfl

/-- The codes by sign. -/
theorem ccOf_eq (v : Word) : ccOf v = if v.toInt < 0 then 4 else if v.toInt = 0 then 2 else 1 := by
  unfold ccOf
  rw [BitVec.msb_eq_toInt]
  simp only [decide_eq_true_eq, Word.eq_zero_iff]

/-- `setcc(v)` makes the codes v's (R34). -/
theorem setcc_codes (s : State) (v : Word) : CodesOf (s.setcc v) v := by
  unfold CodesOf State.setcc State.flagN State.flagZ State.flagP
  simp only [State.setPsr_psr, Psr.withCC_bit, ccOf_eq]
  rcases Int.lt_trichotomy v.toInt 0 with h | h | h
  · simp [h]; omega
  · simp [h]
  · simp [h, show ¬ v.toInt < 0 by omega, show ¬ v.toInt = 0 by omega]

/-- The shared ending of the operate instructions and the loads: DR, the codes, and nothing else. -/
theorem writeResult_result (s : State) (dr : Reg) (v : Word) : RegisterResult s (writeResult s dr v) dr v := by
  refine ⟨by simp [writeResult, State.setcc], fun q hq => by simp [writeResult, State.setcc, hq], setcc_codes _ _,
    fun b hb => ?_, rfl, fun _ => rfl, ⟨rfl, rfl⟩, ⟨rfl, rfl, rfl, rfl, rfl, rfl, rfl⟩, rfl, rfl, rfl, rfl⟩
  simp only [writeResult, State.setcc, State.setPsr_psr, Psr.withCC_bit, State.setReg_psr]
  rw [if_neg (by omega)]

/-- A sign-extended field is the integer it stands for, in sixteen bits (R6). -/
theorem sext16_eq_ofInt {w : Nat} (h : w ≤ 16) (v : BitVec w) : sext16 v = BitVec.ofInt 16 v.toInt := by
  have hw : (2 : Int) ^ (w - 1) ≤ 2 ^ 15 := by exact_mod_cast Nat.pow_le_pow_right (by decide) (by omega)
  have hl := BitVec.le_toInt v
  have hu := BitVec.toInt_lt (x := v)
  unfold sext16
  apply BitVec.eq_of_toInt_eq
  rw [BitVec.toInt_signExtend_of_le h, BitVec.toInt_ofInt]
  exact (Int.bmod_eq_of_le (by norm_num at hw ⊢; omega) (by norm_num at hw ⊢; omega)).symm

end Sys2Proof.Machine
end

