-- ==== Sys2Proof/Laws/Ops.lean ====
section
/-! SUPPORT. For each shared operation one lemma that says everything it can do when it answers, and what it does on
plain memory. Proofs cite these and do not unfold the operation. -/

namespace Sys2Proof.Machine

/-- A sequence answers exactly when both parts do. -/
theorem andThen_eq_next {α β : Type} {o : Result α} {k : α → Result β} {b : β} :
    andThen o k = .next b ↔ ∃ a, o = .next a ∧ k a = .next b := by
  cases o <;> simp [andThen]

@[simp] theorem andThen_next {α β : Type} (a : α) (k : α → Result β) : andThen (.next a) k = k a := rfl

@[simp] theorem andThen_fault {α β : Type} (r : Fault) (k : α → Result β) : andThen (.fault r) k = .fault r := rfl

@[simp] theorem andThen_refused {α β : Type} (r : Refusal) (k : α → Result β) :
    andThen (.refused r) k = .refused r := rfl

/-- Everything a read can do: it changes no state, but for KBSR[15] at KBDR and the counter of a free value. -/
theorem memRead_cases {s s' : State} {a v : Word} (h : memRead s a = .next (v, s')) :
    (isDevice a = false ∧ v = s.word a ∧ s' = s) ∨
    (isDevice a = true ∧ s' = s) ∨
    (isDevice a = true ∧ a = kbdrAddr ∧ v = s.kbdr ∧ s' = s.setKbsrReady false) ∨
    (isDevice a = true ∧ v = Config.freeWord s.freeCount ∧ s' = s.draw) := by
  unfold memRead at h
  split at h
  · rename_i hd
    unfold deviceRead unassignedRead at h
    repeat' split at h
    all_goals first
      | (cases h; done)
      | (simp only [Host.Outcome.next.injEq, Prod.mk.injEq] at h
         obtain ⟨rfl, rfl⟩ := h
         simp_all)
  · rename_i hd
    simp only [Host.Outcome.next.injEq, Prod.mk.injEq] at h
    obtain ⟨rfl, rfl⟩ := h
    exact .inl ⟨by simpa using hd, rfl, rfl⟩

/-- A read of plain memory. -/
theorem memRead_plain {s : State} {a : Word} (h : isDevice a = false) : memRead s a = .next (s.word a, s) := by
  simp [memRead, h]

/-- What a read leaves unchanged, wherever it reads. -/
theorem memRead_frame {s s' : State} {a v : Word} (h : memRead s a = .next (v, s')) :
    s'.regs = s.regs ∧ s'.pc = s.pc ∧ s'.psr = s.psr ∧ s'.savedSsp = s.savedSsp ∧ s'.savedUsp = s.savedUsp ∧
    s'.mem = s.mem ∧ s'.mcr = s.mcr ∧ s'.kbsrIe = s.kbsrIe ∧ s'.kbdr = s.kbdr ∧ s'.dsrReady = s.dsrReady ∧
    s'.ddr = s.ddr ∧ s'.output = s.output ∧ s'.keys = s.keys ∧ s'.schedule = s.schedule ∧ s'.params = s.params ∧
    s.freeCount ≤ s'.freeCount := by
  rcases memRead_cases h with ⟨-, -, rfl⟩ | ⟨-, rfl⟩ | ⟨-, -, -, rfl⟩ | ⟨-, -, rfl⟩ <;> simp

/-- A read never faults. -/
theorem memRead_ne_fault (s : State) (a : Word) (r : Fault) : memRead s a ≠ .fault r := by
  unfold memRead deviceRead unassignedRead
  repeat' split
  all_goals simp

/-- Everything a write can do: one word of memory, one device register, or nothing. -/
theorem memWrite_cases {s s' : State} {a v : Word} (h : memWrite s a v = .next s') :
    (isDevice a = false ∧ s' = s.setMem (s.mem.write a.toNat v)) ∨
    (isDevice a = true ∧ s.params.unassignedIo = .memory ∧ deviceRegisters.contains a.toNat = false ∧
      s' = s.setMem (s.mem.write a.toNat v)) ∨
    (isDevice a = true ∧ s' = s) ∨
    (a = kbsrAddr ∧ s' = s.setKbsrIe (v.getLsbD s.params.kbdIeBit.val)) ∨
    (a = ddrAddr ∧ (s' = display { s with ddr := v } [v.setWidth 8] ∨ s' = { s with ddr := v })) ∨
    (a = psrAddr ∧ s.params.psrStore = .write ∧ s' = s.setPsr v) ∨
    (a = mcrAddr ∧ s' = s.setMcr v) := by
  unfold memWrite at h
  split at h
  · rename_i hd
    unfold deviceWrite at h
    split at h
    · simp_all
    split at h
    · exact nomatch h
    split at h
    · simp_all
    split at h
    · rename_i ha
      unfold ddrStore at h
      dsimp only at h
      repeat' split at h
      all_goals simp_all
    split at h
    · unfold psrStore at h
      split at h <;> simp_all
    split at h
    · simp_all
    · rename_i h1 h2 h3 h4 h5 h6
      unfold unassignedWrite at h
      split at h
      · exact nomatch h
      · simp_all
      · rename_i hp
        refine .inr (.inl ⟨hd, hp, ?_, by simpa using h.symm⟩)
        simp only [kbsrAddr, kbdrAddr, dsrAddr, ddrAddr, psrAddr, mcrAddr, ← BitVec.toNat_inj] at h1 h2 h3 h4 h5 h6
        simp at h1 h2 h3 h4 h5 h6
        simp [deviceRegisters, h1, h2, h3, h4, h5, h6]
  · rename_i hd
    exact .inl ⟨by simpa using hd, by simpa using h.symm⟩

/-- A write to plain memory. -/
theorem memWrite_plain {s : State} {a : Word} (v : Word) (h : isDevice a = false) :
    memWrite s a v = .next (s.setMem (s.mem.write a.toNat v)) := by
  simp [memWrite, h]

/-- What a write leaves unchanged, wherever it writes. -/
theorem memWrite_frame {s s' : State} {a v : Word} (h : memWrite s a v = .next s') :
    s'.regs = s.regs ∧ s'.pc = s.pc ∧ s'.savedSsp = s.savedSsp ∧ s'.savedUsp = s.savedUsp ∧
    s'.kbsrReady = s.kbsrReady ∧ s'.kbdr = s.kbdr ∧ s'.keys = s.keys ∧ s'.schedule = s.schedule ∧
    s'.params = s.params ∧ s'.freeCount = s.freeCount ∧ s.output <+: s'.output ∧
    (s.params.psrStore = .refuse → s'.psr = s.psr) ∧ (∀ b : Word, b ≠ a → s'.word b = s.word b) := by
  have hw : ∀ b : Word, b ≠ a → (s.mem.write a.toNat v).read b.toNat = s.mem.read b.toNat := fun b hb =>
    Memory.read_write_ne _ _ (fun e => hb (BitVec.toNat_inj.mp e))
  rcases memWrite_cases h with ⟨-, rfl⟩ | ⟨-, -, -, rfl⟩ | ⟨-, rfl⟩ | ⟨-, rfl⟩ | ⟨-, rfl | rfl⟩ | ⟨-, hp, rfl⟩ | ⟨-, rfl⟩
  all_goals first
    | exact ⟨rfl, rfl, rfl, rfl, rfl, rfl, rfl, rfl, rfl, rfl, List.prefix_rfl, fun _ => rfl, hw⟩
    | exact ⟨rfl, rfl, rfl, rfl, rfl, rfl, rfl, rfl, rfl, rfl, List.prefix_rfl, fun _ => rfl, fun _ _ => rfl⟩
    | exact ⟨rfl, rfl, rfl, rfl, rfl, rfl, rfl, rfl, rfl, rfl, List.prefix_append _ _, fun _ => rfl, fun _ _ => rfl⟩
    | exact ⟨rfl, rfl, rfl, rfl, rfl, rfl, rfl, rfl, rfl, rfl, List.prefix_rfl, fun h' => by simp_all, fun _ _ => rfl⟩

/-- A write never faults. -/
theorem memWrite_ne_fault (s : State) (a v : Word) (r : Fault) : memWrite s a v ≠ .fault r := by
  unfold memWrite deviceWrite ddrStore psrStore unassignedWrite
  dsimp only
  repeat' split
  all_goals simp

/-- A push onto plain memory, p being R6 - 1. -/
theorem push_plain {s : State} {p : Word} (v : Word) (hp : s.reg .r6 - 1 = p) (h : isDevice p = false) :
    push s v = .next ((s.setReg .r6 p).setMem (s.mem.write p.toNat v)) := by
  subst hp
  unfold push
  rw [memWrite_plain _ h]
  rfl

/-- A pop from plain memory. -/
theorem pop_plain {s : State} (h : isDevice (s.reg .r6) = false) :
    pop s = .next (s.word (s.reg .r6), s.setReg .r6 (s.reg .r6 + 1)) := by
  unfold pop
  rw [memRead_plain h]
  rfl

/-- A table entry (x0000 to x01FF) is plain memory. -/
theorem isDevice_table {a : Word} (h : a.toNat < 0xFE00) : isDevice a = false := by
  simp [isDevice]; omega

@[simp] theorem enterSupervisor_pc (s : State) : (enterSupervisor s).pc = s.pc := by
  unfold enterSupervisor; split <;> rfl

@[simp] theorem enterSupervisor_psr (s : State) : (enterSupervisor s).psr = Psr.supervisor s.psr := by
  unfold enterSupervisor; split <;> rfl

@[simp] theorem enterSupervisor_mem (s : State) : (enterSupervisor s).mem = s.mem := by
  unfold enterSupervisor; split <;> rfl

@[simp] theorem enterSupervisor_savedSsp (s : State) : (enterSupervisor s).savedSsp = s.savedSsp := by
  unfold enterSupervisor; split <;> rfl

@[simp] theorem enterSupervisor_savedUsp (s : State) :
    (enterSupervisor s).savedUsp = if s.userMode then s.reg .r6 else s.savedUsp := by
  unfold enterSupervisor; split <;> rfl

/-- After the switch R6 is the stack pointer the entry pushes below. -/
theorem enterSupervisor_r6 (s : State) : (enterSupervisor s).reg .r6 = entrySp s := by
  unfold enterSupervisor entrySp; split <;> rfl

theorem enterSupervisor_reg (s : State) {q : Reg} (h : q ≠ .r6) : (enterSupervisor s).reg q = s.reg q := by
  unfold enterSupervisor toSupervisorStack
  split <;> simp [h]

theorem enterSupervisor_rest (s : State) : SameDevices s (enterSupervisor s) ∧ SameHost s (enterSupervisor s) := by
  unfold enterSupervisor
  split <;> exact ⟨⟨rfl, rfl, rfl, rfl, rfl, rfl, rfl⟩, rfl, rfl, rfl, rfl⟩

/-- Two pushes onto plain memory and a table entry's load, in full. -/
theorem pushAndVector_plain {s : State} (temp entry : Word) (h1 : isDevice (s.reg .r6 - 1) = false)
    (h2 : isDevice (s.reg .r6 - 2) = false) (he : isDevice entry = false) :
    pushAndVector s temp entry = .next
      (let m := (s.mem.write (s.reg .r6 - 1).toNat temp).write (s.reg .r6 - 2).toNat s.pc
       ((s.setReg .r6 (s.reg .r6 - 2)).setMem m).setPc (m.read entry.toNat)) := by
  have e : s.reg .r6 - 1 - 1 = s.reg .r6 - 2 := by rw [BitVec.sub_sub]; rfl
  generalize hp : s.reg .r6 - 1 = p at *
  generalize s.reg .r6 - 2 = q at *
  unfold pushAndVector
  rw [push_plain _ hp h1, andThen_next]
  have h6 : ((s.setReg .r6 p).setMem (s.mem.write p.toNat temp)).reg .r6 - 1 = q := by simpa using e
  rw [push_plain _ h6 h2, andThen_next, memRead_plain he, andThen_next]
  simp only [State.setReg, State.setMem, State.setPc, State.word, Regs.set_set]

/-- The priority raise touches the PSR and nothing else. -/
theorem raisePriority_frame (s : State) (level : Option (BitVec 3)) :
    s.raisePriority level = s.setPsr (s.raisePriority level).psr := by
  cases level <;> rfl

/-- The PSR after an entry, bit by bit: bit 15 is 0, bits 10 to 8 are the new priority if there is one, and every other
bit is the old one. -/
theorem entered_psr_bit (s : State) (level : Option (BitVec 3)) (b : Nat) :
    ((enterSupervisor s).raisePriority level).psr.getLsbD b =
      match level with
      | none => decide (b ≠ 15) && s.psr.getLsbD b
      | some l => if 8 ≤ b ∧ b < 11 then l.getLsbD (b - 8) else decide (b ≠ 15) && s.psr.getLsbD b := by
  cases level with
  | none => exact (congrArg (BitVec.getLsbD · b) (enterSupervisor_psr s)).trans (Psr.supervisor_bit _ _)
  | some l =>
    show (Psr.withPriority (enterSupervisor s).psr l).getLsbD b = _
    rw [enterSupervisor_psr, Psr.withPriority_bit, Psr.supervisor_bit]

/-- Everything a checked read can do: it takes the exception, or it reads and goes on. -/
theorem checkedRead_cases {s t : State} {a : Word} {k : Word → State → Result State}
    (h : checkedRead s a k = .next t) :
    (s.userMode = true ∧ privileged a = true ∧ raise .acv s = .next t) ∨
    (accessViolation s a = false ∧ ∃ v s1, memRead s a = .next (v, s1) ∧ k v s1 = .next t) := by
  unfold checkedRead at h
  split at h
  · rename_i hv
    simp only [accessViolation, Bool.and_eq_true] at hv
    exact .inl ⟨hv.1, hv.2, h⟩
  · rename_i hv
    obtain ⟨⟨v, s1⟩, h1, h2⟩ := andThen_eq_next.mp h
    exact .inr ⟨by simpa using hv, v, s1, h1, h2⟩

/-- Everything a checked write can do: it takes the exception, or it writes. -/
theorem checkedWrite_cases {s t : State} {a v : Word} (h : checkedWrite s a v = .next t) :
    (s.userMode = true ∧ privileged a = true ∧ raise .acv s = .next t) ∨
    (accessViolation s a = false ∧ memWrite s a v = .next t) := by
  unfold checkedWrite at h
  split at h
  · rename_i hv
    simp only [accessViolation, Bool.and_eq_true] at hv
    exact .inl ⟨hv.1, hv.2, h⟩
  · rename_i hv
    exact .inr ⟨by simpa using hv, h⟩

/-- An unprivileged address is plain memory. -/
theorem isDevice_of_unprivileged {a : Word} (h : privileged a = false) : isDevice a = false := by
  simp only [privileged, Bool.or_eq_false_iff] at h
  exact h.2

/-- A checked read of an unprivileged address, in both modes. -/
theorem checkedRead_unprivileged {s : State} {a : Word} (k : Word → State → Result State) (h : privileged a = false) :
    checkedRead s a k = k (s.word a) s := by
  simp [checkedRead, accessViolation, h, memRead_plain (isDevice_of_unprivileged h)]

/-- A checked write of an unprivileged address, in both modes. -/
theorem checkedWrite_unprivileged {s : State} {a : Word} (v : Word) (h : privileged a = false) :
    checkedWrite s a v = .next (s.setMem (s.mem.write a.toNat v)) := by
  simp [checkedWrite, accessViolation, h, memWrite_plain v (isDevice_of_unprivileged h)]

/-- In Supervisor mode a checked read is the plain read, whatever the address (R118). -/
theorem checkedRead_supervisor {s : State} {a : Word} (k : Word → State → Result State) (h : s.userMode = false) :
    checkedRead s a k = andThen (memRead s a) fun p => k p.1 p.2 := by
  simp [checkedRead, accessViolation, h]

/-- In Supervisor mode a checked write is the plain write, whatever the address (R118). -/
theorem checkedWrite_supervisor {s : State} {a : Word} (v : Word) (h : s.userMode = false) :
    checkedWrite s a v = memWrite s a v := by
  simp [checkedWrite, accessViolation, h]

/-- Everything displaying characters does: the output grows by them, and DSR[15] and DDR may change. -/
theorem displayString_frame (s : State) (cs : List Byte) :
    (displayString s cs).output = s.output ++ cs ∧
    displayString s cs = { s with
      output := (displayString s cs).output, dsrReady := (displayString s cs).dsrReady, ddr := (displayString s cs).ddr } := by
  unfold displayString
  split
  · rename_i h; simp at h; simp [h]
  · exact ⟨rfl, rfl⟩

/-- Everything an arriving key does: nothing, or the next key is in KBDR and ready. -/
theorem keyArrives_cases (s : State) :
    keyArrives s = s ∨ ∃ c rest, s.keys = c :: rest ∧
      keyArrives s = { s with kbdr := zext16 c, kbsrReady := true, keys := rest } := by
  unfold keyArrives
  split
  · exact .inl rfl
  · split
    · exact .inl rfl
    · rename_i hk _; exact .inr ⟨_, _, hk, rfl⟩

/-- A string in plain memory is read up to its first x0000, and reading it changes nothing. -/
theorem stringWords_plain {ws : List Word} {fuel : Nat} {a : Word} {s : State} (hf : ws.length < fuel)
    (hn : ∀ w ∈ ws, w ≠ 0) (hh : HoldsWords s a (ws ++ [0])) : stringWords fuel a s = .next (ws, s) := by
  induction ws generalizing fuel a with
  | nil =>
    cases fuel with
    | zero => simp at hf
    | succ k =>
      obtain ⟨h1, h2, -⟩ := hh
      simp [stringWords, memRead_plain h1, h2]
  | cons w ws ih =>
    cases fuel with
    | zero => simp at hf
    | succ k =>
      obtain ⟨h1, h2, h3⟩ := hh
      have := ih (by simpa using hf) (fun w hw => hn w (List.mem_cons_of_mem _ hw)) h3
      have hw : w ≠ 0 := hn w (by simp)
      simp only [stringWords, memRead_plain h1, h2, andThen_next, hw, if_false, this]

/-- A write keeps memory in canonical form. -/
theorem memWrite_wf {s t : State} {a v : Word} (hw : s.mem.wf = true) (h : memWrite s a v = .next t) :
    t.mem.wf = true := by
  rcases memWrite_cases h with ⟨-, rfl⟩ | ⟨-, -, -, rfl⟩ | ⟨-, rfl⟩ | ⟨-, rfl⟩ | ⟨-, rfl | rfl⟩ | ⟨-, -, rfl⟩ | ⟨-, rfl⟩
  all_goals first | exact hw | exact Memory.wf_write hw a.isLt v

/-- Memory at reset is in canonical form. -/
theorem reset_mem_wf : State.reset.mem.wf = true := by decide

end Sys2Proof.Machine
end

