-- ==== Sys2Proof/Laws/PerInstr.lean ====
section
/-! SUPPORT. Statements about every instruction as syntax, one lemma per constructor. Family OpcodeField: the opcode of
an instruction's word is the one its row of spec/opcode_table.json shows (R81, R82). -/

namespace Sys2Proof

/-- The opcode of the row of an instruction (R82). -/
def Instr.opcodeOf : Instr → BitVec 4
  | .addReg _ _ _ => 0b0001
  | .addImm _ _ _ => 0b0001
  | .andReg _ _ _ => 0b0101
  | .andImm _ _ _ => 0b0101
  | .br _ _ _ _ => 0b0000
  | .ret => 0b1100
  | .jmp _ => 0b1100
  | .jsr _ => 0b0100
  | .jsrr _ => 0b0100
  | .ld _ _ => 0b0010
  | .ldi _ _ => 0b1010
  | .ldr _ _ _ => 0b0110
  | .lea _ _ => 0b1110
  | .notReg _ _ => 0b1001
  | .rti => 0b1000
  | .st _ _ => 0b0011
  | .sti _ _ => 0b1011
  | .str _ _ _ => 0b0111
  | .trap _ => 0b1111
  | .reserved _ => 0b1101

/-- Bits [15:12] of an instruction's word are its row's opcode. -/
def Laws.OpcodeField.Statement (i : Instr) : Prop := opcode (encode i) = i.opcodeOf

theorem Laws.OpcodeField.addReg (dr : Reg) (sr1 : Reg) (sr2 : Reg) : Statement (.addReg dr sr1 sr2) :=
  (extract_append_high (k := 16) rfl (0b0001#4 ++ dr.toBits ++ sr1.toBits ++ 0b000#3) sr2.toBits (by decide)).trans <|
  (extract_append_high (k := 13) rfl (0b0001#4 ++ dr.toBits ++ sr1.toBits) 0b000#3 (by decide)).trans <|
  (extract_append_high (k := 10) rfl (0b0001#4 ++ dr.toBits) sr1.toBits (by decide)).trans <|
  (extract_append_high (k := 7) rfl 0b0001#4 dr.toBits (by decide)).trans rfl

theorem Laws.OpcodeField.addImm (dr : Reg) (sr1 : Reg) (imm5 : BitVec 5) : Statement (.addImm dr sr1 imm5) :=
  (extract_append_high (k := 16) rfl (0b0001#4 ++ dr.toBits ++ sr1.toBits ++ 0b1#1) imm5 (by decide)).trans <|
  (extract_append_high (k := 11) rfl (0b0001#4 ++ dr.toBits ++ sr1.toBits) 0b1#1 (by decide)).trans <|
  (extract_append_high (k := 10) rfl (0b0001#4 ++ dr.toBits) sr1.toBits (by decide)).trans <|
  (extract_append_high (k := 7) rfl 0b0001#4 dr.toBits (by decide)).trans rfl

theorem Laws.OpcodeField.andReg (dr : Reg) (sr1 : Reg) (sr2 : Reg) : Statement (.andReg dr sr1 sr2) :=
  (extract_append_high (k := 16) rfl (0b0101#4 ++ dr.toBits ++ sr1.toBits ++ 0b000#3) sr2.toBits (by decide)).trans <|
  (extract_append_high (k := 13) rfl (0b0101#4 ++ dr.toBits ++ sr1.toBits) 0b000#3 (by decide)).trans <|
  (extract_append_high (k := 10) rfl (0b0101#4 ++ dr.toBits) sr1.toBits (by decide)).trans <|
  (extract_append_high (k := 7) rfl 0b0101#4 dr.toBits (by decide)).trans rfl

theorem Laws.OpcodeField.andImm (dr : Reg) (sr1 : Reg) (imm5 : BitVec 5) : Statement (.andImm dr sr1 imm5) :=
  (extract_append_high (k := 16) rfl (0b0101#4 ++ dr.toBits ++ sr1.toBits ++ 0b1#1) imm5 (by decide)).trans <|
  (extract_append_high (k := 11) rfl (0b0101#4 ++ dr.toBits ++ sr1.toBits) 0b1#1 (by decide)).trans <|
  (extract_append_high (k := 10) rfl (0b0101#4 ++ dr.toBits) sr1.toBits (by decide)).trans <|
  (extract_append_high (k := 7) rfl 0b0101#4 dr.toBits (by decide)).trans rfl

theorem Laws.OpcodeField.br (n : Bool) (z : Bool) (p : Bool) (off : BitVec 9) : Statement (.br n z p off) :=
  (extract_append_high (k := 16) rfl (0b0000#4 ++ BitVec.ofBool n ++ BitVec.ofBool z ++ BitVec.ofBool p) off (by decide)).trans <|
  (extract_append_high (k := 7) rfl (0b0000#4 ++ BitVec.ofBool n ++ BitVec.ofBool z) (BitVec.ofBool p) (by decide)).trans <|
  (extract_append_high (k := 6) rfl (0b0000#4 ++ BitVec.ofBool n) (BitVec.ofBool z) (by decide)).trans <|
  (extract_append_high (k := 5) rfl 0b0000#4 (BitVec.ofBool n) (by decide)).trans rfl

theorem Laws.OpcodeField.ret : Statement .ret :=
  rfl

theorem Laws.OpcodeField.jmp (base : Reg) : Statement (.jmp base) :=
  (extract_append_high (k := 16) rfl (0b1100#4 ++ 0b000#3 ++ base.toBits) 0b000000#6 (by decide)).trans <|
  (extract_append_high (k := 10) rfl (0b1100#4 ++ 0b000#3) base.toBits (by decide)).trans <|
  (extract_append_high (k := 7) rfl 0b1100#4 0b000#3 (by decide)).trans rfl

theorem Laws.OpcodeField.jsr (off : BitVec 11) : Statement (.jsr off) :=
  (extract_append_high (k := 16) rfl (0b0100#4 ++ 0b1#1) off (by decide)).trans <|
  (extract_append_high (k := 5) rfl 0b0100#4 0b1#1 (by decide)).trans rfl

theorem Laws.OpcodeField.jsrr (base : Reg) : Statement (.jsrr base) :=
  (extract_append_high (k := 16) rfl (0b0100#4 ++ 0b0#1 ++ 0b00#2 ++ base.toBits) 0b000000#6 (by decide)).trans <|
  (extract_append_high (k := 10) rfl (0b0100#4 ++ 0b0#1 ++ 0b00#2) base.toBits (by decide)).trans <|
  (extract_append_high (k := 7) rfl (0b0100#4 ++ 0b0#1) 0b00#2 (by decide)).trans <|
  (extract_append_high (k := 5) rfl 0b0100#4 0b0#1 (by decide)).trans rfl

theorem Laws.OpcodeField.ld (dr : Reg) (off : BitVec 9) : Statement (.ld dr off) :=
  (extract_append_high (k := 16) rfl (0b0010#4 ++ dr.toBits) off (by decide)).trans <|
  (extract_append_high (k := 7) rfl 0b0010#4 dr.toBits (by decide)).trans rfl

theorem Laws.OpcodeField.ldi (dr : Reg) (off : BitVec 9) : Statement (.ldi dr off) :=
  (extract_append_high (k := 16) rfl (0b1010#4 ++ dr.toBits) off (by decide)).trans <|
  (extract_append_high (k := 7) rfl 0b1010#4 dr.toBits (by decide)).trans rfl

theorem Laws.OpcodeField.ldr (dr : Reg) (base : Reg) (off : BitVec 6) : Statement (.ldr dr base off) :=
  (extract_append_high (k := 16) rfl (0b0110#4 ++ dr.toBits ++ base.toBits) off (by decide)).trans <|
  (extract_append_high (k := 10) rfl (0b0110#4 ++ dr.toBits) base.toBits (by decide)).trans <|
  (extract_append_high (k := 7) rfl 0b0110#4 dr.toBits (by decide)).trans rfl

theorem Laws.OpcodeField.lea (dr : Reg) (off : BitVec 9) : Statement (.lea dr off) :=
  (extract_append_high (k := 16) rfl (0b1110#4 ++ dr.toBits) off (by decide)).trans <|
  (extract_append_high (k := 7) rfl 0b1110#4 dr.toBits (by decide)).trans rfl

theorem Laws.OpcodeField.notReg (dr : Reg) (sr : Reg) : Statement (.notReg dr sr) :=
  (extract_append_high (k := 16) rfl (0b1001#4 ++ dr.toBits ++ sr.toBits) 0b111111#6 (by decide)).trans <|
  (extract_append_high (k := 10) rfl (0b1001#4 ++ dr.toBits) sr.toBits (by decide)).trans <|
  (extract_append_high (k := 7) rfl 0b1001#4 dr.toBits (by decide)).trans rfl

theorem Laws.OpcodeField.rti : Statement .rti :=
  rfl

theorem Laws.OpcodeField.st (sr : Reg) (off : BitVec 9) : Statement (.st sr off) :=
  (extract_append_high (k := 16) rfl (0b0011#4 ++ sr.toBits) off (by decide)).trans <|
  (extract_append_high (k := 7) rfl 0b0011#4 sr.toBits (by decide)).trans rfl

theorem Laws.OpcodeField.sti (sr : Reg) (off : BitVec 9) : Statement (.sti sr off) :=
  (extract_append_high (k := 16) rfl (0b1011#4 ++ sr.toBits) off (by decide)).trans <|
  (extract_append_high (k := 7) rfl 0b1011#4 sr.toBits (by decide)).trans rfl

theorem Laws.OpcodeField.str (sr : Reg) (base : Reg) (off : BitVec 6) : Statement (.str sr base off) :=
  (extract_append_high (k := 16) rfl (0b0111#4 ++ sr.toBits ++ base.toBits) off (by decide)).trans <|
  (extract_append_high (k := 10) rfl (0b0111#4 ++ sr.toBits) base.toBits (by decide)).trans <|
  (extract_append_high (k := 7) rfl 0b0111#4 sr.toBits (by decide)).trans rfl

theorem Laws.OpcodeField.trap (vect : BitVec 8) : Statement (.trap vect) :=
  (extract_append_high (k := 16) rfl (0b1111#4 ++ 0b0000#4) vect (by decide)).trans <|
  (extract_append_high (k := 8) rfl 0b1111#4 0b0000#4 (by decide)).trans rfl

theorem Laws.OpcodeField.reserved (bits : BitVec 12) : Statement (.reserved bits) :=
  (extract_append_high (k := 16) rfl 0b1101#4 bits (by decide)).trans rfl

end Sys2Proof
end

