-- ==== Sys2Proof/Laws/Step.lean ====
section
/-! SUPPORT. What every step is made of, once: a relation between states that holds for each primitive update holds for
every instruction and every step. -/

namespace Sys2Proof.Machine

/-- A relation between a state and a later one that survives every primitive update of an instruction. -/
structure Carried (R : State → State → Prop) : Prop where
  refl : ∀ s, R s s
  trans : ∀ s t u, R s t → R t u → R s u
  setReg : ∀ s r v, R s (s.setReg r v)
  setPc : ∀ s v, R s (s.setPc v)
  setPsr : ∀ s v, R s (s.setPsr v)
  setSavedSsp : ∀ s v, R s (s.setSavedSsp v)
  setSavedUsp : ∀ s v, R s (s.setSavedUsp v)
  setKbsrReady : ∀ s b, R s (s.setKbsrReady b)
  setMcr : ∀ s v, R s (s.setMcr v)
  draw : ∀ s, R s s.draw
  say : ∀ (s : State) (cs : List Byte) (b : Bool) (v : Word), R s { s with output := s.output ++ cs, dsrReady := b, ddr := v }
  write : ∀ s a v t, memWrite s a v = .next t → R s t

section
variable {R : State → State → Prop} (h : Carried R)
include h

theorem Carried.read {s s' : State} {a v : Word} (e : memRead s a = .next (v, s')) : R s s' := by
  rcases memRead_cases e with ⟨-, -, rfl⟩ | ⟨-, rfl⟩ | ⟨-, -, -, rfl⟩ | ⟨-, -, rfl⟩
  · exact h.refl _
  · exact h.refl _
  · exact h.setKbsrReady _ _
  · exact h.draw _

theorem Carried.writeResult (s : State) (dr : Reg) (v : Word) : R s (writeResult s dr v) :=
  h.trans _ _ _ (h.setReg s dr v) (h.setPsr _ _)

theorem Carried.push {s t : State} {v : Word} (e : push s v = .next t) : R s t :=
  h.trans _ _ _ (h.setReg _ _ _) (h.write _ _ _ _ e)

theorem Carried.pop {s t : State} {v : Word} (e : pop s = .next (v, t)) : R s t := by
  obtain ⟨⟨w, s1⟩, e1, e2⟩ := andThen_eq_next.mp e
  cases e2
  exact h.trans _ _ _ (h.read e1) (h.setReg _ _ _)

theorem Carried.enterSupervisor (s : State) : R s (enterSupervisor s) := by
  unfold Machine.enterSupervisor toSupervisorStack
  dsimp only
  split
  · exact h.trans _ _ _ (h.setPsr _ _) (h.trans _ _ _ (h.setSavedUsp _ _) (h.setReg _ _ _))
  · exact h.setPsr _ _

theorem Carried.pushAndVector {s t : State} {temp entry : Word} (e : pushAndVector s temp entry = .next t) : R s t := by
  obtain ⟨s1, e1, e⟩ := andThen_eq_next.mp e
  obtain ⟨s2, e2, e⟩ := andThen_eq_next.mp e
  obtain ⟨⟨w, s3⟩, e3, e⟩ := andThen_eq_next.mp e
  cases e
  exact h.trans _ _ _ (h.push e1) (h.trans _ _ _ (h.push e2) (h.trans _ _ _ (h.read e3) (h.setPc _ _)))

theorem Carried.initiate {vec : Byte} {level : Option (BitVec 3)} {s t : State} (e : initiate vec level s = .next t) :
    R s t := by
  refine h.trans _ _ _ (h.enterSupervisor s) (h.trans _ _ _ ?_ (h.pushAndVector e))
  cases level
  · exact h.refl _
  · exact h.setPsr _ _

theorem Carried.raise {c : Cause} {s t : State} (e : raise c s = .next t) : R s t :=
  h.trans _ _ _ (h.setPc _ _) (h.initiate e)

theorem Carried.checkedRead {s t : State} {a : Word} {k : Word → State → Result State}
    (hk : ∀ v s1, k v s1 = .next t → R s1 t) (e : checkedRead s a k = .next t) : R s t := by
  unfold Machine.checkedRead at e
  split at e
  · exact h.raise e
  · obtain ⟨⟨w, s1⟩, e1, e2⟩ := andThen_eq_next.mp e
    exact h.trans _ _ _ (h.read e1) (hk _ _ e2)

/-- The end of every load. -/
theorem Carried.load {s t : State} {a : Word} {dr : Reg}
    (e : Machine.checkedRead s a (fun v s1 => .next (Machine.writeResult s1 dr v)) = .next t) : R s t :=
  h.checkedRead (fun v s1 e => by cases e; exact h.writeResult s1 dr v) e

theorem Carried.checkedWrite {s t : State} {a v : Word} (e : checkedWrite s a v = .next t) : R s t := by
  unfold Machine.checkedWrite at e
  split at e
  · exact h.raise e
  · exact h.write _ _ _ _ e

theorem Carried.returnFromSupervisor {s t : State} (e : returnFromSupervisor s = .next t) : R s t := by
  obtain ⟨⟨w, s1⟩, e1, e⟩ := andThen_eq_next.mp e
  obtain ⟨⟨v, s2⟩, e2, e⟩ := andThen_eq_next.mp e
  refine h.trans _ _ _ (h.pop e1) (h.trans _ _ _ (h.setPc _ _) (h.trans _ _ _ (h.pop e2) (h.trans _ _ _ (h.setPsr _ v) ?_)))
  dsimp only at e
  split at e <;> cases e
  · exact h.trans _ _ _ (h.setSavedSsp _ _) (h.setReg _ _ _)
  · exact h.refl _

theorem Carried.displayString (s : State) (cs : List Byte) : R s (displayString s cs) := by
  unfold Machine.displayString
  split
  · exact h.refl _
  · exact h.say s cs (s.dsrReady && cs.isEmpty) _

theorem Carried.consumeKey (s : State) : R s (consumeKey s) :=
  h.trans _ _ _ (h.setKbsrReady _ _) (h.setReg _ _ _)

theorem Carried.stringWords {fuel : Nat} {a : Word} {s t : State} {ws : List Word}
    (e : stringWords fuel a s = .next (ws, t)) : R s t := by
  induction fuel generalizing a s ws with
  | zero => cases e
  | succ n ih =>
    obtain ⟨⟨w, s1⟩, e1, e⟩ := andThen_eq_next.mp e
    refine h.trans _ _ _ (h.read e1) ?_
    dsimp only at e
    split at e
    · cases e; exact h.refl _
    · obtain ⟨⟨w, s2⟩, e2, e⟩ := andThen_eq_next.mp e
      cases e; exact ih e2

theorem Carried.writeString {chars : List Word → List Byte} {s t : State} (e : writeString chars s = .next t) :
    R s t := by
  unfold Machine.writeString at e
  split at e
  · obtain ⟨⟨w, s1⟩, e1, e⟩ := andThen_eq_next.mp e
    cases e
    exact h.trans _ _ _ (h.stringWords e1) (h.displayString _ _)
  · cases e; exact h.setPc _ _

theorem Carried.trapContract {vect : BitVec 8} {s t : State} (e : trapContract vect s = .next t) : R s t := by
  unfold Machine.trapContract at e
  split at e
  · unfold routineGetc at e
    split at e <;> cases e
    · exact h.consumeKey s
    · exact h.setPc _ _
  · unfold routineOut at e
    split at e <;> cases e
    · exact h.displayString _ _
    · exact h.setPc _ _
  · exact h.writeString e
  · unfold routineIn at e
    split at e <;> cases e
    · exact h.trans _ _ _ (h.draw s) (h.trans _ _ _ (h.consumeKey _) (h.displayString _ _))
    · exact h.setPc _ _
  · exact h.writeString e
  · unfold routineHalt at e
    split at e <;> cases e
    · exact h.trans _ _ _ (h.draw s) (h.trans _ _ _ (h.say _ (Config.haltMessage s.freeCount) s.dsrReady s.ddr) (h.setMcr _ _))
    · exact h.setPc _ _
  · cases e

/-- Every instruction. -/
theorem Carried.exec {i : Instr} {s t : State} (e : exec i s = .next t) : R s t := by
  cases i with
  | addReg dr sr1 sr2 => cases e; exact h.writeResult _ _ _
  | addImm dr sr1 imm5 => cases e; exact h.writeResult _ _ _
  | andReg dr sr1 sr2 => cases e; exact h.writeResult _ _ _
  | andImm dr sr1 imm5 => cases e; exact h.writeResult _ _ _
  | notReg dr sr => cases e; exact h.writeResult _ _ _
  | br n z p off => cases e; split; exacts [h.setPc _ _, h.refl _]
  | ret => cases e; exact h.setPc _ _
  | jmp base => cases e; exact h.setPc _ _
  | jsr off => cases e; exact h.trans _ _ _ (h.setPc _ _) (h.setReg _ _ _)
  | jsrr base => cases e; exact h.trans _ _ _ (h.setPc _ _) (h.setReg _ _ _)
  | lea dr off => cases e; exact h.setReg _ _ _
  | ld dr off => exact h.load (a := pcRelative s off) (dr := dr) e
  | ldr dr base off => exact h.load (a := baseOffset s base off) (dr := dr) e
  | ldi dr off =>
    replace e : execLdi dr off s = .next t := e
    unfold execLdi at e
    exact h.checkedRead (fun v s1 e => h.load e) e
  | st sr off => exact h.checkedWrite e
  | str sr base off => exact h.checkedWrite e
  | sti sr off =>
    replace e : execSti sr off s = .next t := e
    unfold execSti at e
    exact h.checkedRead (fun v s1 e => h.checkedWrite e) e
  | rti =>
    replace e : execRti s = .next t := e
    unfold execRti at e
    split at e
    · exact h.raise e
    · exact h.returnFromSupervisor e
  | trap vect =>
    replace e : execTrap vect s = .next t := e
    unfold execTrap at e
    split at e
    · exact h.trans _ _ _ (h.enterSupervisor s) (h.pushAndVector e)
    · exact h.trapContract e
  | reserved bits => exact h.raise (c := .illegalOpcode) e

/-- Every move of the processor. -/
theorem Carried.processorStep {s t : State} (e : processorStep s = .next t) : R s t := by
  unfold Machine.processorStep fetchAndExecute executeWord at e
  repeat' split at e
  · exact h.initiate e
  · exact h.trans _ _ _ (h.setPc _ _) (h.raise e)
  · cases e
  · exact h.trans _ _ _ (h.setPc _ _) (h.exec e)
  · cases e
  · cases e; exact h.refl _

end

/-- Everything a step can be: the turn is taken, and then the processor, the keyboard or the display moves. -/
theorem step_cases {s t : State} (e : step s = .next t) :
    (turn s = .processor ∧ processorStep (takeTurn s) = .next t) ∨
    (turn s = .keyboard ∧ t = keyArrives (takeTurn s)) ∨ (turn s = .display ∧ t = displayDone (takeTurn s)) := by
  unfold step move at e
  cases ht : turn s <;> rw [ht] at e
  · exact .inl ⟨rfl, e⟩
  · cases e; exact .inr (.inl ⟨rfl, rfl⟩)
  · cases e; exact .inr (.inr ⟨rfl, rfl⟩)

end Sys2Proof.Machine
end

