-- ==== Sys2Proof/Tests/Slice0.lean ====
section
/-! SUPPORT. The author's own tests. The expected values are those of 95_test_vectors.md (V1 to V110, the tables of
section 2 and 3.7) or words written out from Figure A.2 (R82); after them, for every statement that has hypotheses, a
state and operands that meet them, clause by clause. -/

namespace Sys2Proof.Tests

open Sys2Proof.Machine

/- WellFormed -/

theorem test_wellFormed_refuses_jmp_r7 : (Instr.jmp .r7).wellFormed = false := by decide
theorem test_wellFormed_accepts_jmp_r6 : (Instr.jmp .r6).wellFormed = true := by decide

/- Decoding: one word or more of every row, bit by bit from Figure A.2 (R82) -/

theorem test_decode_addReg : decode 0b0001_010_011_0_00_100 = .ok (.addReg .r2 .r3 .r4) := by decide
theorem test_decode_addImm : decode 0b0001_010_011_1_10000 = .ok (.addImm .r2 .r3 (-16)) := by decide
theorem test_decode_andReg : decode 0b0101_010_011_0_00_100 = .ok (.andReg .r2 .r3 .r4) := by decide
theorem test_decode_andImm : decode 0b0101_111_000_1_00111 = .ok (.andImm .r7 .r0 7) := by decide
theorem test_decode_br : decode 0b0000_100_111111100 = .ok (.br true false false (-4)) := by decide
theorem test_decode_br_zp : decode 0b0000_011_111111100 = .ok (.br false true true (-4)) := by decide
theorem test_decode_ret : decode 0b1100_000_111_000000 = .ok .ret := by decide
theorem test_decode_jmp : decode 0b1100_000_010_000000 = .ok (.jmp .r2) := by decide
theorem test_decode_jsr : decode 0b0100_1_10000000000 = .ok (.jsr (-1024)) := by decide
theorem test_decode_jsrr : decode 0b0100_0_00_011_000000 = .ok (.jsrr .r3) := by decide
theorem test_decode_ld : decode 0b0010_100_000000001 = .ok (.ld .r4 1) := by decide
theorem test_decode_ldi : decode 0b1010_100_100000000 = .ok (.ldi .r4 (-256)) := by decide
theorem test_decode_ldr : decode 0b0110_100_010_111011 = .ok (.ldr .r4 .r2 (-5)) := by decide
theorem test_decode_lea : decode 0b1110_101_011111111 = .ok (.lea .r5 255) := by decide
theorem test_decode_not : decode 0b1001_100_010_111111 = .ok (.notReg .r4 .r2) := by decide
theorem test_decode_rti : decode 0b1000_000000000000 = .ok .rti := by decide
theorem test_decode_st : decode 0b0011_100_000000001 = .ok (.st .r4 1) := by decide
theorem test_decode_sti : decode 0b1011_110_111111111 = .ok (.sti .r6 (-1)) := by decide
theorem test_decode_str : decode 0b0111_100_010_000101 = .ok (.str .r4 .r2 5) := by decide
theorem test_decode_trap : decode 0b1111_0000_00100011 = .ok (.trap 0x23) := by decide
theorem test_decode_reserved : decode 0b1101_000100100011 = .ok (.reserved 0x123) := by decide

/-- 95_test_vectors.md section 3.7: the words with wrong fixed bits, each rejected by the name of its row. -/
theorem test_decode_rejects :
    decode 0x1008 = .error .add ∧ decode 0x9000 = .error .not ∧ decode 0x8001 = .error .rti ∧
    decode 0xF123 = .error .trap ∧ decode 0xC001 = .error .jmp ∧ decode 0x4001 = .error .jsrr ∧
    decode 0x5018 = .error .and := by decide

/-- The same words under NONCANONICAL_POLICY = ignore. -/
theorem test_decode_ignoring :
    decodeLoose 0x1008 = .addReg .r0 .r0 .r0 ∧ decodeLoose 0x9000 = .notReg .r0 .r0 ∧ decodeLoose 0x8001 = .rti ∧
    decodeLoose 0xF123 = .trap 0x23 ∧ decodeLoose 0xC001 = .jmp .r0 ∧ decodeLoose 0x4001 = .jsrr .r0 := by decide

/-- `decodeTableWord` reads the low sixteen bits of a table word. -/
theorem test_decodeTableWord :
    decodeTableWord 16 0x14C4 = some (.addReg .r2 .r3 .r4) ∧ decodeTableWord 16 0x1008 = none := by decide

/- The vectors of 95_test_vectors.md section 3, with its default parameters and start state -/

/-- A start state: the defaults of section 3, and what a row says otherwise of PC, PSR, registers and memory. -/
def start (pc psr : Word) (regs : List (Reg × Word)) (mem : List (Word × Word)) : State :=
  { State.reset with
    pc := pc, psr := psr, regs := regs.foldl (fun g p => g.set p.1 p.2) Regs.zero,
    mem := mem.foldl (fun m p => m.write p.1.toNat p.2) [], params := Params.specDefaults }

/-- One step, observed through f; `none` when the machine stops. -/
def after {α : Type} (s : State) (f : State → α) : Option α :=
  match step s with
  | .next t => some (f t)
  | .fault _ => none
  | .refused _ => none

/-- The refusal of one step. -/
def refusal (s : State) : Option Refusal :=
  match step s with
  | .next _ => none
  | .fault _ => none
  | .refused r => some r

/-- A register, the PC and the PSR. -/
def seen (r : Reg) (t : State) : Word × Word × Word := (t.reg r, t.pc, t.psr)

/-- What an entry into Supervisor mode shows: R6, PC, PSR, Saved_USP and the two words pushed. -/
def entry (t : State) : List Word :=
  [t.reg .r6, t.pc, t.psr, t.savedUsp, t.word (t.reg .r6 + 1), t.word (t.reg .r6)]

theorem test_V4_add_wraps :
    after (start 0x3000 0x8002 [(.r0, 0x8000)] [(0x3000, 0x1000)]) (seen .r0) = some (0, 0x3001, 0x8002) := by decide
theorem test_V8_add_same_register :
    after (start 0x3000 0x8002 [(.r7, 3)] [(0x3000, 0x1FC7)]) (seen .r7) = some (6, 0x3001, 0x8001) := by decide
theorem test_V3_add_immediate_wraps :
    after (start 0x3000 0x8002 [] [(0x3000, 0x127F)]) (seen .r1) = some (0xFFFF, 0x3001, 0x8004) := by decide
theorem test_V6_add_smallest_immediate :
    after (start 0x3000 0x8002 [(.r5, 0x10)] [(0x3000, 0x1B70)]) (seen .r5) = some (0, 0x3001, 0x8002) := by decide
theorem test_V9_and :
    after (start 0x3000 0x8002 [(.r3, 0xFF0F), (.r4, 0x0FF0)] [(0x3000, 0x54C4)]) (seen .r2)
      = some (0x0F00, 0x3001, 0x8001) := by decide
theorem test_V11_and_immediate_extends :
    after (start 0x3000 0x8002 [(.r1, 0x8001)] [(0x3000, 0x527F)]) (seen .r1) = some (0x8001, 0x3001, 0x8004) := by decide
theorem test_V13_and_immediate_positive :
    after (start 0x3000 0x8002 [(.r3, 0xFFFF)] [(0x3000, 0x56EF)]) (seen .r3) = some (0x000F, 0x3001, 0x8001) := by decide
theorem test_V14_not :
    after (start 0x3000 0x8002 [(.r2, 0x00FF)] [(0x3000, 0x98BF)]) (seen .r4) = some (0xFF00, 0x3001, 0x8004) := by decide
theorem test_V21_ld_lowest_reach :
    after (start 0x3100 0x8002 [] [(0x3001, 0x42), (0x3100, 0x2900)]) (seen .r4) = some (0x42, 0x3101, 0x8001) := by decide
theorem test_V26_ldi_second_address_privileged :
    after { start 0x3000 0x8002 [(.r4, 0x7777), (.r6, 0xF000)] [(0x0102, 0x0500), (0x3000, 0xA804), (0x3005, 0xFE00)]
      with savedSsp := 0x2F00, kbsrReady := true } (fun t => (entry t, t.reg .r4, t.kbsrReady))
      = some ([0x2EFE, 0x0500, 0x0002, 0xF000, 0x8002, 0x3001], 0x7777, true) := by decide
theorem test_V28_ldi_reads_kbdr :
    after { start 0x0200 0x0002 [] [(0x0200, 0xA001), (0x0202, 0xFE02)] with kbsrReady := true, kbdr := 0x61 }
      (fun t => (seen .r0 t, t.kbsrReady)) = some ((0x61, 0x0201, 0x0001), false) := by decide
theorem test_V33_ldr_address_wraps :
    after (start 0x0200 0x0002 [(.r2, 0xFFFF)] [(0x0000, 0x1234), (0x0200, 0x6881)]) (seen .r4)
      = some (0x1234, 0x0201, 0x0001) := by decide
theorem test_V35_ldr_first_device_address :
    after { start 0x3000 0x8002 [(.r2, 0xFDFF), (.r4, 0x7777), (.r6, 0xF000)] [(0x0102, 0x0500), (0x3000, 0x6881)]
      with savedSsp := 0x2F00 } (fun t => (entry t, t.reg .r4))
      = some ([0x2EFE, 0x0500, 0x0002, 0xF000, 0x8002, 0x3001], 0x7777) := by decide
theorem test_V36_lea_keeps_codes :
    after (start 0x3000 0x8004 [] [(0x3000, 0xE9FF)]) (seen .r4) = some (0x3000, 0x3001, 0x8004) := by decide
theorem test_V38_lea_privileged :
    after (start 0x3000 0x8001 [] [(0x3000, 0xE100)]) (seen .r0) = some (0x2F01, 0x3001, 0x8001) := by decide
theorem test_V39_st :
    after (start 0x3000 0x8002 [(.r4, 0xCAFE)] [(0x3000, 0x3801)]) (fun t => (t.word 0x3002, t.pc, t.psr))
      = some (0xCAFE, 0x3001, 0x8002) := by decide
theorem test_V40_st_privileged :
    after { start 0x3000 0x8002 [(.r4, 0xCAFE), (.r6, 0xF000)] [(0x0102, 0x0500), (0x2FFF, 0x1111), (0x3000, 0x39FE)]
      with savedSsp := 0x2F00 } (fun t => (entry t, t.word 0x2FFF))
      = some ([0x2EFE, 0x0500, 0x0002, 0xF000, 0x8002, 0x3001], 0x1111) := by decide
theorem test_V42_sti :
    after (start 0x3000 0x8002 [(.r4, 0xCAFE)] [(0x3000, 0xB804), (0x3005, 0x4000)])
      (fun t => (t.word 0x4000, t.word 0x3005, t.pc)) = some (0xCAFE, 0x4000, 0x3001) := by decide
theorem test_V44_sti_displays :
    after (start 0x0200 0x0002 [(.r4, 0x1241)] [(0x0200, 0xB801), (0x0202, 0xFE06)])
      (fun t => (t.output, t.dsrReady, t.pc)) = some ([0x41], false, 0x0201) := by decide
theorem test_V46_str_source_is_base :
    after (start 0x3000 0x8002 [(.r2, 0x4000)] [(0x3000, 0x7480)]) (fun t => (t.word 0x4000, t.pc))
      = some (0x4000, 0x3001) := by decide
theorem test_V50_br_taken :
    after (start 0x3000 0x8002 [] [(0x3000, 0x0605)]) (seen .r0) = some (0, 0x3006, 0x8002) := by decide
theorem test_V51_br_not_taken :
    after (start 0x3000 0x8001 [] [(0x3000, 0x0805)]) (seen .r0) = some (0, 0x3001, 0x8001) := by decide
theorem test_V59_jmp :
    after (start 0x3000 0x8002 [(.r2, 0x4000)] [(0x3000, 0xC080)]) (seen .r2) = some (0x4000, 0x4000, 0x8002) := by decide
theorem test_V60_ret :
    after (start 0x3000 0x8002 [(.r7, 0x3456)] [(0x3000, 0xC1C0)]) (seen .r7) = some (0x3456, 0x3456, 0x8002) := by decide
theorem test_V61_jsr :
    after (start 0x3500 0x8002 [(.r7, 0x1111)] [(0x3500, 0x4C00)]) (seen .r7) = some (0x3501, 0x3101, 0x8002) := by decide
theorem test_V64_jsrr_r7 :
    after (start 0x3000 0x8002 [(.r7, 0x5000)] [(0x3000, 0x41C0)]) (seen .r7) = some (0x3001, 0x5000, 0x8002) := by decide
theorem test_V70_trap :
    after { start 0x3000 0x8301 [(.r6, 0xFDF0), (.r7, 0x7777)] [(0x0023, 0x04A0), (0x3000, 0xF023)] with savedUsp := 0 }
      (fun t => (entry t, t.reg .r7))
      = some ([0x2FFE, 0x04A0, 0x0301, 0xFDF0, 0x8301, 0x3001], 0x7777) := by decide
theorem test_V71_trap_from_supervisor :
    after { start 0x0400 0x0002 [(.r6, 0x2FF0)] [(0x0025, 0x0520), (0x0400, 0xF025)] with savedSsp := 0x1111, savedUsp := 0xFDF0 }
      (fun t => (entry t, t.savedSsp))
      = some ([0x2FEE, 0x0520, 0x0002, 0xFDF0, 0x0002, 0x0401], 0x1111) := by decide
theorem test_V73_rti_to_user :
    after { start 0x0450 0x0402 [(.r6, 0x2FFE)] [(0x0450, 0x8000), (0x2FFE, 0x3003), (0x2FFF, 0x8301)]
      with savedSsp := 0x1111, savedUsp := 0xFDF0 } (fun t => (seen .r6 t, t.savedSsp, t.savedUsp))
      = some ((0xFDF0, 0x3003, 0x8301), 0x3000, 0xFDF0) := by decide
theorem test_V78_rti_undefined_bits :
    after { start 0x0450 0x0002 [(.r6, 0x2FFE)] [(0x0450, 0x8000), (0x2FFE, 0x3000), (0x2FFF, 0xF8FF)] with savedUsp := 0xFDF0 }
      (seen .r6) = some (0xFDF0, 0x3000, 0xF8FF) := by decide
theorem test_V75_rti_in_user_mode :
    after (start 0x3000 0x8002 [(.r6, 0xFDF0)] [(0x0100, 0x0600), (0x3000, 0x8000)]) entry
      = some [0x2FFE, 0x0600, 0x0002, 0xFDF0, 0x8002, 0x3001] := by decide
theorem test_V77_reserved_in_supervisor_mode :
    after (start 0x0400 0x0704 [(.r6, 0x2F80)] [(0x0101, 0x0640), (0x0400, 0xDFFF)]) entry
      = some [0x2F7E, 0x0640, 0x0704, 0xFE00, 0x0704, 0x0401] := by decide
theorem test_V83_fetch_violation :
    after (start 0x2F01 0x8001 [(.r6, 0xFDF0)] [(0x0102, 0x0500), (0x2F01, 0x1021)]) (fun t => (entry t, t.reg .r0))
      = some ([0x2FFE, 0x0500, 0x0001, 0xFDF0, 0x8001, 0x2F02], 0) := by decide
theorem test_V84_interrupt :
    after { start 0x3000 0x8301 [(.r0, 5), (.r6, 0xFDF0)] [(0x0180, 0x0700), (0x3000, 0x1021)]
      with kbsrReady := true, kbsrIe := true, kbdr := 0x41 } (fun t => (entry t, t.reg .r0, t.kbsrReady))
      = some ([0x2FFE, 0x0700, 0x0401, 0xFDF0, 0x8301, 0x3000], 5, true) := by decide
theorem test_V85_no_interrupt_at_PL4 :
    after { start 0x3000 0x8401 [(.r0, 5)] [(0x3000, 0x1021)] with kbsrReady := true, kbsrIe := true } (seen .r0)
      = some (6, 0x3001, 0x8401) := by decide
theorem test_V88_store_kbsr :
    after (start 0x0200 0x0002 [(.r1, 0x4000)] [(0x0200, 0xB201), (0x0202, 0xFE00)]) (fun t => (t.kbsrIe, t.kbsrReady))
      = some (true, false) := by decide
theorem test_V89_load_kbsr :
    after { start 0x0200 0x0402 [] [(0x0200, 0xA201), (0x0202, 0xFE00)] with kbsrReady := true, kbsrIe := true }
      (fun t => (seen .r1 t, t.kbsrReady)) = some ((0xC000, 0x0201, 0x0404), true) := by decide
theorem test_V91_load_psr :
    after (start 0x0200 0x0302 [] [(0x0200, 0xA201), (0x0202, 0xFFFC)]) (seen .r1)
      = some (0x0302, 0x0201, 0x0301) := by decide
theorem test_V92_store_mcr :
    after (start 0x0200 0x0002 [(.r1, 0x7FFF)] [(0x0200, 0xB201), (0x0202, 0xFFFE)]) (fun t => (t.mcr, t.pc))
      = some (0x7FFF, 0x0201) := by decide
theorem test_V93_stopped :
    after { start 0x3000 0x8002 [(.r0, 5)] [(0x3000, 0x1021)] with mcr := 0x7FFF } (seen .r0)
      = some (5, 0x3000, 0x8002) := by decide
/-- V94, V95, V96, V47: the accesses without a meaning under the spec's default parameters. The display's own move stands
after the processor's in the schedule, so that it is the processor that moves. -/
theorem test_V94_V95_V96_V47_refused :
    refusal { start 0x0200 0x0002 [(.r1, 0x42)] [(0x0200, 0xB201), (0x0202, 0xFE06)]
      with dsrReady := false, schedule := [.processor] } = some .ddrBusy ∧
    refusal (start 0x0200 0x0002 [] [(0x0200, 0xA201), (0x0202, 0xFE06)]) = some .ddrLoad ∧
    refusal (start 0x0200 0x0002 [] [(0x0200, 0xA201), (0x0202, 0xFE01)]) = some .unassignedIo ∧
    refusal (start 0x0200 0x0002 [(.r4, 0xCAFE)] [(0x0200, 0x78BF)]) = some .unassignedIo := by decide

/-- V100 to V102. -/
theorem test_V100_privileged :
    privileged 0x0000 = true ∧ privileged 0x2FFF = true ∧ privileged 0x3000 = false ∧ privileged 0xFDFF = false ∧
    privileged 0xFE00 = true ∧ privileged 0xFFFF = true := by decide

/-- V103 to V107. -/
theorem test_V103_extensions :
    sext16 0b10000#5 = 0xFFF0 ∧ sext16 0b01111#5 = 0x000F ∧ sext16 0b100000#6 = 0xFFE0 ∧
    sext16 0b100000000#9 = 0xFF00 ∧ sext16 0b10000000000#11 = 0xFC00 ∧ zext16 0xFF#8 = 0x00FF := by decide

/-- The program P5 under OS_IMAGE abstract, step 2: PUTS displays "Hi". -/
theorem test_P5_puts_contract :
    after { start 0x3001 0x8002 [(.r0, 0x3003)] [(0x3001, 0xF022), (0x3003, 0x48), (0x3004, 0x69)]
      with params := { Params.specDefaults with osImage := .abstract } } (fun t => (t.output, seen .r0 t))
      = some ([0x48, 0x69], (0x3003, 0x3002, 0x8002)) := by decide

/-- Labels and literals (R93, R94, R98): BRzp to a label three words before it is x07FC. -/
theorem test_assemble_br_back :
    (assembleInstr 0x3003 (.br .zp 0x3000)).map encode = some 0x07FC ∧ labelField 9 0x3000 0x3101 = none ∧
    parseLiteral ['#', '-', '5'] = some (.decimal (-5)) ∧ parseLiteral ['x', 'F', '2'] = some (.pattern 0xF2) := by decide

/- The hypotheses of the statements can be met -/

/-- A User-mode state at x3000 with the given registers and memory, the PC taken as the incremented one. -/
def user (regs : List (Reg × Word)) (mem : List (Word × Word)) : State := start 0x3000 0x8002 regs mem

/-- A Supervisor-mode state with the given PC, registers and memory. -/
def sup (pc : Word) (regs : List (Reg × Word)) (mem : List (Word × Word)) : State :=
  start pc 0x0002 ((.r6, 0x3000) :: regs) mem

/-- The same with OS_IMAGE abstract. -/
def abstractOs (s : State) : State := { s with params := { s.params with osImage := .abstract } }

theorem test_meets_DecodeOfEncodeIsTheInstruction : (Instr.br false true true 255).wellFormed = true := by decide
theorem test_meets_EncodeOfDecodedWordIsTheWord : decode 0xD123 = .ok (.reserved 0x123) := by decide

theorem test_meets_StepRunsTheDecodedInstruction :
    Executes (user [] [(0x3000, 0x1021)]) ∧
    decode ((user [] [(0x3000, 0x1021)]).word (user [] [(0x3000, 0x1021)]).pc) = .ok (.addImm .r0 .r0 1) := by
  unfold Executes; decide

/-- A width within the sixteen bits, and the source's own examples S2 and S3 of it. -/
theorem test_meets_ExtensionsKeepTheFieldsValue :
    6 ≤ 16 ∧ zext16 0b110000#6 = 0x0030 ∧ sext16 0b110000#6 = 0xFFF0 := by decide

/-- Both policies, at the first and the last address a User-mode fetch may use. -/
theorem test_meets_StepOnNonCanonicalWord :
    (Executes (user [] [(0x3000, 0x1008)]) ∧ decode ((user [] [(0x3000, 0x1008)]).word 0x3000) = .error .add ∧
      (user [] [(0x3000, 0x1008)]).params.noncanonical = .refuse) ∧
    (Executes (State.reset.withFetchWord 16 0x8001) ∧ decode ((State.reset.withFetchWord 16 0x8001).word 0x3000) = .error .rti ∧
      (State.reset.withFetchWord 16 0x8001).params.noncanonical = .ignore) ∧
    Executes (start 0xFDFF 0x8002 [] [(0xFDFF, 0x9000)]) := by
  unfold Executes; decide

/-- x2FFF and xFE00 from User mode; xFE00 and xFFFF from Supervisor mode, and xFFFF from User mode without FETCH_ACV. -/
theorem test_meets_FetchOutsideAllowedMemory :
    (∀ s ∈ [start 0x2FFF 0x8002 [] [], start 0xFE00 0x8002 [] []], turn s = .processor ∧ s.clockEnabled = true ∧
      s.kbsrReady = false ∧ s.params.fetchAcv = true ∧ s.userMode = true ∧ privileged s.pc = true) ∧
    (∀ s ∈ [sup 0xFE00 [] [], sup 0xFFFF [] [],
        let s := start 0xFFFF 0x8002 [] []
        { s with params := { s.params with fetchAcv := false } }],
      turn s = .processor ∧ s.clockEnabled = true ∧ s.kbsrReady = false ∧ isDevice s.pc = true ∧
      (s.userMode = false ∨ s.params.fetchAcv = false)) := by decide

theorem test_meets_PlacedWordIsRunNext :
    State.reset.mem.wf = true ∧ State.reset.clockEnabled = true ∧
    ¬(State.reset.kbsrReady = true ∧ State.reset.kbsrIe = true ∧ State.reset.priority.toNat < 4) ∧
    fetchViolation State.reset State.reset.pc = false ∧ isDevice State.reset.pc = false ∧ decode 0xF025 = .ok (.trap 0x25) := by
  decide

theorem test_meets_StoppedProcessorStaysStopped :
    let s := { State.reset with mcr := 0x7FFF }
    s.clockEnabled = false ∧ turn s = .processor ∧ turn { s with schedule := [.keyboard] } = .keyboard := by decide

theorem test_meets_KeyboardMoveDeliversTheNextKey :
    let s := { State.reset with keys := [0x41, 0x42], schedule := [.keyboard] }
    let hold := { s with kbsrReady := true, params := { s.params with kbdOverrun := .hold } }
    (turn s = .keyboard ∧ s.keys = 0x41 :: [0x42] ∧ s.kbsrReady = false) ∧
    (turn { s with kbsrReady := true } = .keyboard ∧ s.params.kbdOverrun = .overwrite) ∧
    (turn hold = .keyboard ∧ hold.keys = 0x41 :: [0x42] ∧ hold.kbsrReady = true ∧ hold.params.kbdOverrun = .hold) := by
  decide

theorem test_meets_DisplayMoveMakesItReady :
    turn { State.reset with schedule := [.display] } = .display ∧
    (let s := { State.reset with dsrReady := false }
     s.schedule = [] ∧ s.dsrReady = false) := by decide

/-- LD: x2FFF from User mode; x3000 from User mode and xFDFF from Supervisor mode; xFE00 read; xFE06 refused. -/
theorem test_meets_LdLoadsTheAddressedWord :
    ((user [] []).userMode = true ∧ privileged (pcRelative (user [] []) (-1 : BitVec 9)) = true) ∧
    (privileged (pcRelative (user [] []) (0 : BitVec 9)) = false ∧ isDevice (pcRelative (user [] []) (0 : BitVec 9)) = false) ∧
    ((sup 0xFE00 [] []).userMode = false ∧ isDevice (pcRelative (sup 0xFE00 [] []) (-1 : BitVec 9)) = false) ∧
    (∃ v s1, memRead (sup 0xFE00 [] []) (pcRelative (sup 0xFE00 [] []) (0 : BitVec 9)) = .next (v, s1)) ∧
    memRead (sup 0xFE06 [] []) (pcRelative (sup 0xFE06 [] []) (0 : BitVec 9)) = .refused .ddrLoad :=
  ⟨by decide, by decide, by decide, ⟨_, _, rfl⟩, rfl⟩

/-- LDR: xFE00 from User mode; xFDFF from User mode; KBDR read; xFE06 refused. -/
theorem test_meets_LdrLoadsTheAddressedWord :
    let s := user [(.r2, 0xFDFF)] []
    let t := sup 0x0200 [(.r2, 0xFE02)] []
    (s.userMode = true ∧ privileged (baseOffset s .r2 1) = true) ∧
    (privileged (baseOffset s .r2 0) = false ∧ isDevice (baseOffset s .r2 0) = false) ∧ t.userMode = false ∧
    (∃ v s1, memRead t (baseOffset t .r2 0) = .next (v, s1)) ∧ memRead t (baseOffset t .r2 4) = .refused .ddrLoad :=
  ⟨by decide, by decide, by decide, ⟨_, _, rfl⟩, rfl⟩

/-- LDI: the first address x2FFF, the pointer xFE00, both plain, a pointer to KBDR in Supervisor mode, the first address
xFE06, the pointer xFE06. -/
theorem test_meets_LdiLoadsThroughThePointer :
    let s := user [] [(0x3000, 0xFE00), (0x3001, 0xFDFF)]
    let t := sup 0x0200 [] [(0x0200, 0xFE02), (0x0201, 0xFE06)]
    (s.userMode = true ∧ privileged (pcRelative s (-1 : BitVec 9)) = true) ∧
    (privileged (pcRelative s (0 : BitVec 9)) = false ∧ privileged (s.word (pcRelative s (0 : BitVec 9))) = true) ∧
    (privileged (pcRelative s (1 : BitVec 9)) = false ∧ privileged (s.word (pcRelative s (1 : BitVec 9))) = false ∧
      isDevice (pcRelative s (1 : BitVec 9)) = false ∧ isDevice (s.word (pcRelative s (1 : BitVec 9))) = false) ∧
    t.userMode = false ∧ memRead t (pcRelative t (0 : BitVec 9)) = .next (0xFE02, t) ∧
    memRead t 0xFE02 = .next (0, t.setKbsrReady false) ∧
    memRead t (pcRelative t (1 : BitVec 9)) = .next (0xFE06, t) ∧ memRead t 0xFE06 = .refused .ddrLoad ∧
    memRead (sup 0xFE06 [] []) (pcRelative (sup 0xFE06 [] []) (0 : BitVec 9)) = .refused .ddrLoad :=
  ⟨by decide, by decide, by decide, by decide, rfl, rfl, rfl, rfl, rfl⟩

/-- ST: x2FFF from User mode; x3000; xFDFF and xFE00 from Supervisor mode. -/
theorem test_meets_StStoresAtTheAddress :
    (user [] []).mem.wf = true ∧ (user [] []).userMode = true ∧
    privileged (pcRelative (user [] []) (-1 : BitVec 9)) = true ∧
    privileged (pcRelative (user [] []) (0 : BitVec 9)) = false ∧ isDevice (pcRelative (user [] []) (0 : BitVec 9)) = false ∧
    (sup 0xFE00 [] []).mem.wf = true ∧ (sup 0xFE00 [] []).userMode = false ∧
    isDevice (pcRelative (sup 0xFE00 [] []) (-1 : BitVec 9)) = false ∧
    isDevice (pcRelative (sup 0xFE00 [] []) (0 : BitVec 9)) = true := by decide

theorem test_meets_StrStoresAtTheAddress :
    let s := user [(.r2, 0xFDFF)] []
    let t := sup 0x0200 [(.r2, 0xFDFF)] []
    s.mem.wf = true ∧ s.userMode = true ∧ privileged (baseOffset s .r2 1) = true ∧
    privileged (baseOffset s .r2 0) = false ∧ isDevice (baseOffset s .r2 0) = false ∧
    t.mem.wf = true ∧ t.userMode = false ∧ isDevice (baseOffset t .r2 1) = true := by decide

/-- STI: the first address x2FFF, the pointer xFE00, both plain, a pointer to MCR in Supervisor mode, the first address
xFE06. -/
theorem test_meets_StiStoresThroughThePointer :
    let s := user [] [(0x3000, 0xFE00), (0x3001, 0xFDFF)]
    let t := sup 0x0200 [] [(0x0200, 0xFFFE)]
    (s.mem.wf = true ∧ s.userMode = true ∧ privileged (pcRelative s (-1 : BitVec 9)) = true) ∧
    (privileged (pcRelative s (0 : BitVec 9)) = false ∧ privileged (s.word (pcRelative s (0 : BitVec 9))) = true) ∧
    (privileged (pcRelative s (1 : BitVec 9)) = false ∧ privileged (s.word (pcRelative s (1 : BitVec 9))) = false ∧
      isDevice (pcRelative s (1 : BitVec 9)) = false ∧ isDevice (s.word (pcRelative s (1 : BitVec 9))) = false) ∧
    (t.mem.wf = true ∧ t.userMode = false ∧ isDevice 0xFFFE = true) ∧
    memRead t (pcRelative t (0 : BitVec 9)) = .next (0xFFFE, t) ∧
    memRead (sup 0xFE06 [] []) (pcRelative (sup 0xFE06 [] []) (0 : BitVec 9)) = .refused .ddrLoad :=
  ⟨by decide, by decide, by decide, by decide, rfl, rfl⟩

theorem test_meets_UserAccessToPrivilegedMemoryIsAcv :
    let s := user [] [(0x3000, 0x2FFF)]
    s.userMode = true ∧ touchesPrivileged (.ldi .r0 0) s = true ∧ touchesPrivileged (.str .r0 .r1 0) s = true ∧
    (sup 0x0200 [] []).userMode = false := by decide

theorem test_meets_DeviceRegisterStores :
    (user [] []).params.psrStore = .refuse ∧ State.reset.params.psrStore = .write := by decide

theorem test_meets_StoreToDdrDisplays :
    State.reset.dsrReady = true ∧ State.reset.params.ddrBusyStore = .display ∧
    (let s := { State.reset with dsrReady := false }
     s.dsrReady = false ∧ { s with params := { s.params with ddrBusyStore := .drop } }.params.ddrBusyStore = .drop) ∧
    (let s := { user [] [] with dsrReady := false }
     s.dsrReady = false ∧ s.params.ddrBusyStore = .refuse) := by decide

/-- xFE01, xFFFD and xFFFF have no register; each policy. -/
theorem test_meets_UnassignedDeviceAddresses :
    [(0xFE01 : Word), 0xFFFD, 0xFFFF].all (fun a => isDevice a && !deviceRegisters.contains a.toNat) = true ∧
    (user [] []).params.unassignedIo = .refuse ∧ State.reset.params.unassignedIo = .anyValue ∧
    (let s := { State.reset with params := { State.reset.params with unassignedIo := .memory } }
     s.params.unassignedIo = .memory ∧ s.mem.wf = true) := by decide

/-- Taken and not taken. -/
theorem test_meets_BrBranchesOnTheTestedCodes :
    (user [] []).flagZ = true ∧ (user [] []).flagN = false ∧ (user [] []).flagP = false := by decide

/-- The pushed word at xFDFF and, the stack pointer wrapping, at x0000. -/
theorem test_meets_PushThenPopReturnsTheWord :
    (sup 0x0200 [(.r6, 0xFE00)] []).mem.wf = true ∧ isDevice ((sup 0x0200 [(.r6, 0xFE00)] []).reg .r6 - 1) = false ∧
    isDevice ((sup 0x0200 [(.r6, 1)] []).reg .r6 - 1) = false := by decide

/-- A ready stack, and a first push that is refused. -/
theorem test_meets_TrapEntersTheServiceRoutine :
    (user [] []).params.osImage = .concrete ∧ StackReady (user [] []) ∧ StackReady { user [] [] with savedSsp := 0xFE00 } ∧
    push (enterSupervisor { user [] [] with savedSsp := 0xFE03 }) (user [] []).psr = .refused .kbdrStore :=
  ⟨by decide, by unfold StackReady; decide, by unfold StackReady; decide, rfl⟩

/-- Popped words up to xFDFF; a first pop that is refused. -/
theorem test_meets_RtiRestoresPcAndPsr :
    let s := sup 0x0200 [(.r6, 0xFDFE)] [(0xFDFF, 0x8002)]
    (s.userMode = false ∧ isDevice (s.reg .r6) = false ∧ isDevice (s.reg .r6 + 1) = false) ∧
    memRead (sup 0x0200 [(.r6, 0xFE06)] []) ((sup 0x0200 [(.r6, 0xFE06)] []).reg .r6) = .refused .ddrLoad :=
  ⟨by decide, rfl⟩

theorem test_meets_RtiInUserModeIsAViolation : (user [] []).userMode = true ∧ StackReady (user [] []) :=
  ⟨by decide, by unfold StackReady; decide⟩

theorem test_meets_ReservedOpcodeIsIllegal : StackReady (user [] []) ∧ StackReady (sup 0x0200 [] []) :=
  ⟨by unfold StackReady; decide, by unfold StackReady; decide⟩

theorem test_meets_AcvEntersThroughX0102 : StackReady (user [] []) := by unfold StackReady; decide

/-- PL3, the highest level the keyboard interrupts. -/
theorem test_meets_KeyboardInterruptIsTaken :
    let s := { start 0x3000 0x8301 [] [] with kbsrReady := true, kbsrIe := true }
    turn s = .processor ∧ s.clockEnabled = true ∧ s.kbsrReady = true ∧ s.kbsrIe = true ∧ s.priority.toNat < 4 ∧
    StackReady s := by unfold StackReady; decide

/-- Each of the three entries, the routine's state being the one the entry left. -/
theorem test_meets_RtiUndoesEveryEntry :
    StackReady (user [] []) ∧ (user [] []).params.osImage = .concrete ∧
    (∃ t, exec (.trap 0x23) (user [] []) = .next t ∧ t.userMode = false) ∧
    (∃ t, raise .acv (user [] []) = .next t ∧ t.userMode = false) ∧
    (∃ t, initiateInterrupt (user [] []) = .next t ∧ t.userMode = false) :=
  ⟨by unfold StackReady; decide, by decide, ⟨_, rfl, by decide⟩, ⟨_, rfl, by decide⟩, ⟨_, rfl, by decide⟩⟩

theorem test_meets_GetcContract :
    (abstractOs State.reset).params.osImage = .abstract ∧ (abstractOs State.reset).kbsrReady = false ∧
    (let s := { abstractOs State.reset with kbsrReady := true, kbdr := 0x41 }
     s.params.osImage = .abstract ∧ s.kbsrReady = true) := by decide

theorem test_meets_OutAndInContracts :
    (let s := { abstractOs State.reset with kbsrReady := true }
     s.params.osImage = .abstract ∧ s.dsrReady = true ∧ s.kbsrReady = true) ∧
    (let s := { abstractOs State.reset with dsrReady := false }
     s.params.osImage = .abstract ∧ s.dsrReady = false) ∧
    (let s := abstractOs State.reset
     s.params.osImage = .abstract ∧ s.dsrReady = true ∧ s.kbsrReady = false) := by decide

/-- A string of two words with the display ready; the display busy. -/
theorem test_meets_StringContracts :
    let s := abstractOs (user [(.r0, 0x4000)] [(0x4000, 0x48), (0x4001, 0x4169)])
    ({ s with dsrReady := false }.params.osImage = .abstract ∧ { s with dsrReady := false }.dsrReady = false) ∧
    s.params.osImage = .abstract ∧ s.dsrReady = true ∧ (∀ w ∈ [(0x48 : Word), 0x4169], w ≠ 0) ∧
    HoldsWords s (s.reg .r0) ([0x48, 0x4169] ++ [0]) := by
  refine ⟨by decide, by decide, by decide, by simp, ?_⟩
  simp only [List.cons_append, List.nil_append, HoldsWords]
  decide

/-- The display ready and busy; the vectors next to x20 and x25. -/
theorem test_meets_HaltContract :
    (abstractOs State.reset).params.osImage = .abstract ∧ (abstractOs State.reset).dsrReady = true ∧
    (let s := { abstractOs State.reset with dsrReady := false }
     s.params.osImage = .abstract ∧ s.dsrReady = false) ∧
    (0x1F : BitVec 8).toNat < 0x20 ∧ 0x25 < (0x26 : BitVec 8).toNat := by decide

theorem test_meets_EveryStepKeepsTheInvariant :
    (user [] [(0x3000, 0x3801), (0xFDFF, 1)]).Inv ∧ ∃ t, step (user [] [(0x3000, 0x3801), (0xFDFF, 1)]) = .next t :=
  ⟨⟨by decide, by decide, by decide⟩, ⟨_, rfl⟩⟩

theorem test_meets_LaunchFixesTheDeviceState :
    let l := { Launch.bareUserProgram with mem := [(0, 1), (0xFDFF, 1)] }
    l.mem.wf = true ∧ ∀ c ∈ l.mem, c.1 < 0xFE00 := by decide

theorem test_meets_StepsOnlyExtendTheHostsView : ∃ t, step State.reset = .next t := ⟨_, rfl⟩

theorem test_meets_OnlyRtiLeavesSupervisorMode :
    let s := sup 0x0200 [(.r6, 0x2FFE)] [(0x2FFF, 0x8002)]
    s.userMode = false ∧ s.params.psrStore = .refuse ∧ ∃ t, exec .rti s = .next t ∧ t.userMode = true :=
  ⟨by decide, by decide, ⟨_, rfl, by decide⟩⟩

theorem test_meets_UserModeIsLeftOnlyByEntries :
    (user [] []).userMode = true ∧ (∃ t, exec (.trap 0x25) (user [] []) = .next t ∧ t.userMode = false) ∧
    ∃ t, step (user [] [(0x3000, 0xF025)]) = .next t ∧ t.userMode = false :=
  ⟨by decide, ⟨_, rfl, by decide⟩, ⟨_, rfl, by decide⟩⟩

theorem test_meets_OnlyRtiChangesThePriority :
    (user [] []).params.psrStore = .refuse ∧ (∃ t, exec (.reserved 0) (user [] []) = .next t) ∧ Instr.reserved 0 ≠ .rti :=
  ⟨by decide, ⟨_, rfl⟩, by decide⟩

theorem test_meets_SavedStackPointersNeedASwitch :
    isSystem (.addImm .r6 .r6 1) = false ∧ touchesPrivileged (.addImm .r6 .r6 1) (user [] []) = false ∧
    (∃ t, exec (.addImm .r6 .r6 1) (user [] []) = .next t) ∧
    ((sup 0x0200 [] []).userMode = false ∧ ∃ t, exec (.ld .r6 0) (sup 0x0200 [] []) = .next t) :=
  ⟨by decide, by decide, ⟨_, rfl⟩, by decide, ⟨_, rfl⟩⟩

/-- An entry that pushes at x2FFF and x2FFE, and a privileged address that is neither. -/
theorem test_meets_UserModeWritesNoPrivilegedState :
    (user [] []).userMode = true ∧ (user [] []).params.osImage = .concrete ∧
    (∃ t, exec (.trap 0x25) (user [] []) = .next t) ∧ privileged 0x2FFD = true ∧
    (0x2FFD : Word) ≠ (user [] []).savedSsp - 1 ∧ (0x2FFD : Word) ≠ (user [] []).savedSsp - 2 ∧
    isDevice ((user [] []).savedSsp - 1) = false ∧ isDevice ((user [] []).savedSsp - 2) = false :=
  ⟨by decide, by decide, ⟨_, rfl⟩, by decide, by decide, by decide, by decide, by decide⟩

/-- Two states that differ in x2FFF, in Saved_SSP and in the keyboard. -/
theorem test_meets_UserModeCannotSeePrivilegedState :
    let s := user [] [(0x3005, 7)]
    let s' := { s with mem := s.mem.write 0x2FFF 1, savedSsp := 0x2000, kbsrReady := true }
    s.userMode = true ∧ s.params.osImage = .concrete ∧ s.params.psrStore = .refuse ∧ s.mem.wf = true ∧
    s'.mem.wf = true ∧ UserEqual s s' ∧ ∃ t, exec (.ld .r0 5) s = .next t ∧ t.userMode = true := by
  refine ⟨by decide, by decide, by decide, by decide, by decide, ⟨rfl, rfl, rfl, rfl, fun a h => ?_⟩, _, rfl, by decide⟩
  refine (Memory.read_write_ne (user [] [(0x3005, 7)]).mem 1 fun (e : a.toNat = 0x2FFF) => ?_).symm
  simp [privileged, e] at h

theorem test_meets_StoreIsSeenByTheNextFetch :
    let s := user [(.r0, 0x1021)] []
    s.mem.wf = true ∧ pcRelative s (0 : BitVec 9) = s.pc ∧ (∃ t, exec (.st .r0 0) s = .next t ∧ Executes t) ∧
    decode (s.reg .r0) = .ok (.addImm .r0 .r0 1) ∧ privileged s.pc = false :=
  ⟨by decide, by decide, ⟨_, rfl, by unfold Executes; decide⟩, by decide, by decide⟩

/-- The label just within and just out of the nine bits. -/
theorem test_meets_LabelFieldsReachTheirLabels :
    labelField 9 0x3000 0x3100 = some 255 ∧ labelField 9 0x3000 0x2F01 = some (-256) ∧ labelField 9 0x3000 0x3101 = none ∧
    labelField 11 0x3000 0x3400 = some 1023 := by decide

end Sys2Proof.Tests
end

section
/-! PROOFS. Operands: the extensions of a field as values (R6, R7 of 00_scope.md). -/

namespace Sys2Proof.Machine

/-- `zext_16` cuts no bit off a field of at most sixteen bits (R7). -/
theorem zext16_toNat {w : Nat} (h : w ≤ 16) (v : BitVec w) : (zext16 v).toNat = v.toNat :=
  BitVec.toNat_setWidth_of_le h

/-- Settles O14: R6 at the four widths of the encoding is one lemma for every width up to sixteen, and R7 another. -/
theorem extensionsKeepTheFieldsValue : Obligations.ExtensionsKeepTheFieldsValue :=
  ⟨sext16_eq_ofInt (by decide), sext16_eq_ofInt (by decide), sext16_eq_ofInt (by decide), sext16_eq_ofInt (by decide),
    fun _ v h => zext16_toNat h v⟩

end Sys2Proof.Machine
end

section
/-! PROOFS. `setcc` and the launch (R34, R45 of 10_state.md; R190 of 70_reset_and_hazards.md). -/

namespace Sys2Proof.Machine

/-- `setcc` writes the PSR and nothing else (R34). -/
theorem setcc_eq_setPsr (s : State) (v : Word) : s.setcc v = s.setPsr (s.setcc v).psr := rfl

/-- `setcc` keeps PSR[15:3] (R34). -/
theorem setcc_samePsrAboveCodes (s : State) (v : Word) : SamePsrAboveCodes s (s.setcc v) := by
  intro b hb
  simp [State.setcc, Psr.withCC_bit, show ¬ b < 3 by omega]

/-- The codes of a value are the triple its sign gives: exactly one of them is set (R34). -/
theorem CodesOf.flags_eq {t : State} {v : Word} (h : CodesOf t v) :
    (t.flagN, t.flagZ, t.flagP) =
      if v.toInt < 0 then (true, false, false) else if v = 0 then (false, true, false) else (false, false, true) := by
  simp only [Word.eq_zero_iff]
  rcases Int.lt_trichotomy v.toInt 0 with neg | zero | pos
  · simpa [CodesOf, neg, neg.ne, neg.le.not_gt] using h
  · simpa [CodesOf, zero] using h
  · simpa [CodesOf, pos, pos.ne', pos.le.not_gt] using h

/-- Settles O16. -/
theorem setccClassifiesTheValue : Obligations.SetccClassifiesTheValue := fun s v =>
  ⟨(setcc_codes s v).flags_eq, setcc_samePsrAboveCodes s v, setcc_eq_setPsr s v⟩

/-- An address below the device registers may be listed under every policy (R52). -/
theorem mayHold_of_lt {p : Config.Params} {a : Nat} (h : a < 0xFE00) : mayHold p a = true := by
  simp [mayHold, h]

/-- A launch with a canonical image below the device registers has the invariant. -/
theorem launch_inv {l : Launch} (hwf : l.mem.wf = true) (himage : ∀ c ∈ l.mem, c.1 < 0xFE00) :
    (State.launch l).Inv :=
  ⟨hwf, fun c hc => mayHold_of_lt (himage c hc), (zext16_toNat (by decide) l.kbdr).trans_lt l.kbdr.isLt⟩

/-- Settles O50: reset is the launch of the profile "bare user program", whose image is empty. -/
theorem resetHasTheInvariant : Obligations.ResetHasTheInvariant :=
  launch_inv reset_mem_wf fun _ hc => absurd hc List.not_mem_nil

/-- Settles O51: every field is the launch's own or the spec's, by definition; KBDR is the host's code,
zero-extended. -/
theorem launchFixesTheDeviceState : Obligations.LaunchFixesTheDeviceState := fun l =>
  ⟨rfl, rfl, rfl, rfl, rfl, rfl, rfl, rfl, rfl, rfl, rfl, zext16_toNat (by decide) l.kbdr, rfl, rfl, rfl, rfl, rfl,
    launch_inv⟩

end Sys2Proof.Machine
end

section
/-! PROOFS. The instruction cycle: what a move of the processor is, case by case (R30, R31 of 10_state.md). -/

namespace Sys2Proof.Machine

/-- A canonical word decodes to what its opcode, mode bit and named fields give (R89, R99). -/
theorem decodeLoose_of_decode {w : Word} {i : Instr} (h : decode w = .ok i) : decodeLoose w = i := by
  unfold decode at h
  split at h
  · cases h
  · exact Except.ok.inj h

/-- A canonical word means the same under both policies (R89). -/
theorem decodeUnder_of_decode {w : Word} {i : Instr} (policy : Config.NoncanonicalPolicy) (h : decode w = .ok i) :
    decodeUnder policy w = .ok i := by
  cases policy with
  | refuse => exact h
  | ignore => exact congrArg Except.ok (decodeLoose_of_decode h)

/-- What the interrupt condition tests (R163). -/
theorem interruptCondition_iff (s : State) :
    interruptCondition s = true ↔ s.kbsrReady = true ∧ s.kbsrIe = true ∧ s.priority.toNat < 4 := by
  simp [interruptCondition, and_assoc]

/-- What the fetch test tests (R61, D5). -/
theorem fetchViolation_iff (s : State) (a : Word) :
    fetchViolation s a = true ↔ s.params.fetchAcv = true ∧ s.userMode = true ∧ privileged a = true := by
  simp [fetchViolation, accessViolation]

/-- On the processor's turn a step is the processor's move. -/
theorem step_processor {s : State} (h : turn s = .processor) : step s = processorStep (takeTurn s) := by
  simp [step, move, h]

/-- On the keyboard's turn a step is an arriving key. -/
theorem step_keyboard {s : State} (h : turn s = .keyboard) : step s = .next (keyArrives (takeTurn s)) := by
  simp [step, move, h]

/-- On the display's turn a step makes the display ready. -/
theorem step_display {s : State} (h : turn s = .display) : step s = .next (displayDone (takeTurn s)) := by
  simp [step, move, h]

/-- With MCR[15] = 0 the processor's move changes nothing (R31). -/
theorem processorStep_stopped {s : State} (h : s.clockEnabled = false) : processorStep s = .next s := by
  simp [processorStep, h]

/-- A step that fetches and executes: the word at the PC, with the PC incremented (R30). -/
theorem step_of_executes {s : State} (h : Executes s) :
    step s = executeWord (s.word s.pc) ((takeTurn s).setPc (s.pc + 1)) := by
  obtain ⟨hturn, hclock, hint, hfetch, hdev⟩ := h
  have hclock' : (takeTurn s).clockEnabled = true := hclock
  have hint' : interruptCondition (takeTurn s) = false :=
    Bool.eq_false_iff.mpr (mt (interruptCondition_iff s).mp hint)
  have hfetch' : fetchViolation (takeTurn s) (takeTurn s).pc = false := hfetch
  have hdev' : isDevice (takeTurn s).pc = false := hdev
  rw [step_processor hturn, processorStep, if_pos hclock', hint', fetchAndExecute, hfetch', hdev']
  rfl

/-- Everything a move of the processor can be: nothing, the interrupt, the fetch violation, or one instruction. -/
theorem processorStep_cases {s t : State} (e : processorStep s = .next t) :
    (s.clockEnabled = false ∧ t = s) ∨
    (s.clockEnabled = true ∧ interruptCondition s = true ∧ initiateInterrupt s = .next t) ∨
    (s.clockEnabled = true ∧ fetchViolation s s.pc = true ∧ raise .acv (s.setPc (s.pc + 1)) = .next t) ∨
    (s.clockEnabled = true ∧ ∃ i, decodeUnder s.params.noncanonical (s.word s.pc) = .ok i ∧
      exec i (s.setPc (s.pc + 1)) = .next t) := by
  unfold processorStep at e
  split at e
  next hclock =>
    split at e
    next hint => exact .inr (.inl ⟨hclock, hint, e⟩)
    next =>
      unfold fetchAndExecute at e
      split at e
      next hfetch => exact .inr (.inr (.inl ⟨hclock, hfetch, e⟩))
      next =>
        split at e
        next => cases e
        next =>
          unfold executeWord at e
          split at e
          next i hi => exact .inr (.inr (.inr ⟨hclock, i, hi, e⟩))
          next => cases e
  next hclock => exact .inl ⟨Bool.eq_false_iff.mpr hclock, by cases e; rfl⟩

/-- Settles O7. -/
theorem stepRunsTheDecodedInstruction : Obligations.StepRunsTheDecodedInstruction := by
  intro s i hex hdec
  have hi : decodeUnder ((takeTurn s).setPc (s.pc + 1)).params.noncanonical (s.word s.pc) = .ok i :=
    decodeUnder_of_decode _ hdec
  rw [step_of_executes hex, executeWord, hi]

/-- An arriving key changes nothing of the processor and of memory. -/
theorem keyArrives_frame (s : State) :
    (keyArrives s).regs = s.regs ∧ (keyArrives s).pc = s.pc ∧ (keyArrives s).psr = s.psr ∧
    (keyArrives s).mcr = s.mcr ∧ SameSaved s (keyArrives s) ∧ SameMemory s (keyArrives s) := by
  rcases keyArrives_cases s with h | ⟨c, rest, -, h⟩ <;> rw [h] <;>
    exact ⟨rfl, rfl, rfl, rfl, ⟨rfl, rfl⟩, fun _ => rfl⟩

/-- Settles O11: each agent's move in turn. -/
theorem stoppedProcessorStaysStopped : Obligations.StoppedProcessorStaysStopped := by
  intro s hstop
  have hproc (hturn : turn s = .processor) : step s = .next (takeTurn s) :=
    (step_processor hturn).trans (processorStep_stopped hstop)
  refine ⟨hproc, ?_⟩
  cases hturn : turn s with
  | processor => exact ⟨_, hproc hturn, rfl, rfl, rfl, rfl, ⟨rfl, rfl⟩, fun _ => rfl⟩
  | keyboard => exact ⟨_, step_keyboard hturn, keyArrives_frame (takeTurn s)⟩
  | display => exact ⟨_, step_display hturn, rfl, rfl, rfl, rfl, ⟨rfl, rfl⟩, fun _ => rfl⟩

end Sys2Proof.Machine
end

section
/-! PROOFS. Instructions that make no entry and no return: what their primitive updates keep, and the one way out of
them, the ACV exception (R28, R56, R57, R60). -/

namespace Sys2Proof.Machine

/-- A relation between a state and a later one that survives the primitive updates of the instructions that are not
TRAP, RTI or the reserved opcode, as long as no exception is taken. Unlike `Carried` it asks nothing of the switches of
mode and stack, and of a write only what happens where the access test passes. -/
structure CarriedInMode (R : State → State → Prop) : Prop where
  refl : ∀ s, R s s
  trans : ∀ s t u, R s t → R t u → R s u
  setReg : ∀ s r v, R s (s.setReg r v)
  setPc : ∀ s v, R s (s.setPc v)
  setcc : ∀ s v, R s (s.setcc v)
  setKbsrReady : ∀ s b, R s (s.setKbsrReady b)
  draw : ∀ s, R s s.draw
  write : ∀ s a v t, accessViolation s a = false → memWrite s a v = .next t → R s t

/-- The access at a is the one that takes the ACV exception, which ends in t (R56, R57). -/
def AcvAt (s : State) (a : Word) (t : State) : Prop :=
  s.userMode = true ∧ privileged a = true ∧ raise .acv s = .next t

/-- The instruction takes the ACV exception for one of its data addresses, which ends in t (R60). -/
def TakesAcv (i : Instr) (s t : State) : Prop :=
  s.userMode = true ∧ touchesPrivileged i s = true ∧ raise .acv s = .next t

theorem AcvAt.takesAcv {i : Instr} {s t : State} {a : Word} (h : AcvAt s a t) (ha : a ∈ dataAddresses i s) :
    TakesAcv i s t :=
  ⟨h.1, List.any_eq_true.mpr ⟨a, ha, h.2.1⟩, h.2.2⟩

/-- In User mode the access test lets through plain memory alone. -/
theorem isDevice_of_userMode {s : State} {a : Word} (hu : s.userMode = true) (hv : accessViolation s a = false) :
    isDevice a = false :=
  isDevice_of_unprivileged (by simpa [accessViolation, hu] using hv)

/-- An exception at the second access of LDI or STI: in User mode the first access read plain memory, so the pointer is
the word of memory and the state is still the instruction's own. -/
theorem AcvAt.of_pointer {s s1 t : State} {a p : Word} (hv : accessViolation s a = false)
    (hread : memRead s a = .next (p, s1)) (h : AcvAt s1 p t) : AcvAt s (s.word a) t := by
  obtain ⟨hu1, hp, hraise⟩ := h
  obtain ⟨-, -, hpsr, -⟩ := memRead_frame hread
  have hu : s.userMode = true := by rwa [State.userMode, hpsr] at hu1
  rw [memRead_plain (isDevice_of_userMode hu hv)] at hread
  cases hread
  exact ⟨hu, hp, hraise⟩

section
variable {R : State → State → Prop} (h : CarriedInMode R)
include h

theorem CarriedInMode.read {s s' : State} {a v : Word} (e : memRead s a = .next (v, s')) : R s s' := by
  rcases memRead_cases e with ⟨-, -, rfl⟩ | ⟨-, rfl⟩ | ⟨-, -, -, rfl⟩ | ⟨-, -, rfl⟩
  · exact h.refl _
  · exact h.refl _
  · exact h.setKbsrReady _ _
  · exact h.draw _

theorem CarriedInMode.writeResult (s : State) (dr : Reg) (v : Word) : R s (writeResult s dr v) :=
  h.trans _ _ _ (h.setReg s dr v) (h.setcc _ _)

theorem CarriedInMode.linkAndJump (s : State) (target : Word) : R s (linkAndJump s target) :=
  h.trans _ _ _ (h.setPc s target) (h.setReg _ _ _)

/-- The end of every load. -/
theorem CarriedInMode.load {s t : State} {a : Word} {dr : Reg}
    (e : Machine.checkedRead s a (fun v s1 => .next (Machine.writeResult s1 dr v)) = .next t) :
    R s t ∨ AcvAt s a t := by
  rcases checkedRead_cases e with hacv | ⟨-, v, s1, hread, hend⟩
  · exact .inr hacv
  · cases hend
    exact .inl (h.trans _ _ _ (h.read hread) (h.writeResult _ _ _))

/-- The end of every store. -/
theorem CarriedInMode.store {s t : State} {a v : Word} (e : checkedWrite s a v = .next t) : R s t ∨ AcvAt s a t := by
  rcases checkedWrite_cases e with hacv | ⟨hv, hwrite⟩
  · exact .inr hacv
  · exact .inl (h.write _ _ _ _ hv hwrite)

/-- A pointer read before an access that either carries R or takes the exception at the pointer: LDI and STI. -/
theorem CarriedInMode.indirect {i : Instr} {s t : State} {a : Word} {k : Word → State → Result State}
    (hi : dataAddresses i s = [a, s.word a]) (hk : ∀ p s1, k p s1 = .next t → R s1 t ∨ AcvAt s1 p t)
    (e : checkedRead s a k = .next t) : R s t ∨ TakesAcv i s t := by
  rcases checkedRead_cases e with hacv | ⟨hv, p, s1, hread, hend⟩
  · exact .inr (AcvAt.takesAcv hacv (by simp [hi]))
  · rcases hk p s1 hend with hR | hacv
    · exact .inl (h.trans _ _ _ (h.read hread) hR)
    · exact .inr ((hacv.of_pointer hv hread).takesAcv (by simp [hi]))

/-- Every instruction that is not TRAP, RTI or the reserved opcode: what it does is carried, or it takes the ACV
exception for one of its data addresses. -/
theorem CarriedInMode.exec {i : Instr} {s t : State} (hi : isSystem i = false) (e : exec i s = .next t) :
    R s t ∨ TakesAcv i s t := by
  cases i with
  | addReg dr sr1 sr2 => cases e; exact .inl (h.writeResult _ _ _)
  | addImm dr sr1 imm5 => cases e; exact .inl (h.writeResult _ _ _)
  | andReg dr sr1 sr2 => cases e; exact .inl (h.writeResult _ _ _)
  | andImm dr sr1 imm5 => cases e; exact .inl (h.writeResult _ _ _)
  | notReg dr sr => cases e; exact .inl (h.writeResult _ _ _)
  | br n z p off => cases e; split; exacts [.inl (h.setPc _ _), .inl (h.refl _)]
  | ret => cases e; exact .inl (h.setPc _ _)
  | jmp base => cases e; exact .inl (h.setPc _ _)
  | jsr off => cases e; exact .inl (h.linkAndJump _ _)
  | jsrr base => cases e; exact .inl (h.linkAndJump _ _)
  | lea dr off => cases e; exact .inl (h.setReg _ _ _)
  | ld dr off => exact (h.load (a := pcRelative s off) (dr := dr) e).imp_right (·.takesAcv (by simp [dataAddresses]))
  | ldr dr base off =>
    exact (h.load (a := baseOffset s base off) (dr := dr) e).imp_right (·.takesAcv (by simp [dataAddresses]))
  | st sr off => exact (h.store (a := pcRelative s off) e).imp_right (·.takesAcv (by simp [dataAddresses]))
  | str sr base off => exact (h.store (a := baseOffset s base off) e).imp_right (·.takesAcv (by simp [dataAddresses]))
  | ldi dr off => exact h.indirect (a := pcRelative s off) rfl (fun _ _ e1 => h.load (dr := dr) e1) e
  | sti sr off =>
    exact h.indirect (k := fun p s1 => checkedWrite s1 p (s1.reg sr)) (a := pcRelative s off) rfl
      (fun _ _ e1 => h.store e1) e
  | rti => cases hi
  | trap vect => cases hi
  | reserved bits => cases hi

end

/-- The Saved stack pointers survive every update but the two switches (R22 to R25). -/
theorem sameSaved_carriedInMode : CarriedInMode SameSaved where
  refl _ := ⟨rfl, rfl⟩
  trans _ _ _ h1 h2 := ⟨h2.1.trans h1.1, h2.2.trans h1.2⟩
  setReg _ _ _ := ⟨rfl, rfl⟩
  setPc _ _ := ⟨rfl, rfl⟩
  setcc _ _ := ⟨rfl, rfl⟩
  setKbsrReady _ _ := ⟨rfl, rfl⟩
  draw _ := ⟨rfl, rfl⟩
  write _ _ _ _ _ e := by
    obtain ⟨-, -, hssp, husp, -⟩ := memWrite_frame e
    exact ⟨hssp, husp⟩

/-- Settles O56. -/
theorem savedStackPointersNeedASwitch : Obligations.SavedStackPointersNeedASwitch := by
  intro i s t hi hacv e
  rcases sameSaved_carriedInMode.exec hi e with hsaved | ⟨hu, htouch, -⟩
  · exact hsaved
  · exact absurd ⟨hu, htouch⟩ hacv

/-- t is in User mode if s is. -/
def StaysInUserMode (s t : State) : Prop := s.userMode = true → t.userMode = true

/-- The PSR alone decides the mode. -/
theorem userMode_of_psr_eq {s t : State} (h : t.psr = s.psr) : t.userMode = s.userMode :=
  congrArg (BitVec.getLsbD · 15) h

/-- User mode survives every update but the entries: where the access test passes, a write cannot reach the PSR. -/
theorem staysInUserMode_carriedInMode : CarriedInMode StaysInUserMode where
  refl _ := id
  trans _ _ _ h1 h2 := h2 ∘ h1
  setReg _ _ _ := id
  setPc _ _ := id
  setcc s v hu := (setcc_samePsrAboveCodes s v 15 (by decide)).trans hu
  setKbsrReady _ _ := id
  draw _ := id
  write s a v t hv e hu := by
    rw [memWrite_plain v (isDevice_of_userMode hu hv)] at e
    cases e
    exact hu

/-- An instruction that leaves User mode is TRAP, RTI, the reserved opcode, or has a privileged data address (R28). -/
theorem exec_leaves_userMode {i : Instr} {s t : State} (hu : s.userMode = true) (e : exec i s = .next t)
    (ht : t.userMode = false) : isSystem i = true ∨ touchesPrivileged i s = true := by
  cases hi : isSystem i with
  | true => exact .inl rfl
  | false =>
    rcases staysInUserMode_carriedInMode.exec hi e with hstay | ⟨-, htouch, -⟩
    · exact absurd (hstay hu) (Bool.eq_false_iff.mp ht)
    · exact .inr htouch

/-- Settles O54: the instruction's part is `exec_leaves_userMode`; no device's move and no stopped processor changes the
PSR, and the processor's other moves are the interrupt and the fetch violation. -/
theorem userModeIsLeftOnlyByEntries : Obligations.UserModeIsLeftOnlyByEntries := by
  refine ⟨fun i s t => exec_leaves_userMode, fun s t hu e ht => ?_⟩
  have hpsr : t.psr ≠ s.psr := fun h => Bool.false_ne_true ((ht.symm.trans (userMode_of_psr_eq h)).trans hu)
  rcases step_cases e with ⟨hturn, hproc⟩ | ⟨-, rfl⟩ | ⟨-, rfl⟩
  · rcases processorStep_cases hproc with
      ⟨-, rfl⟩ | ⟨hclock, hint, -⟩ | ⟨hclock, hfetch, -⟩ | ⟨hclock, i, hi, hexec⟩
    · exact absurd rfl hpsr
    · exact ⟨hturn, hclock, .inl ((interruptCondition_iff (takeTurn s)).mp hint)⟩
    · obtain ⟨hacv, -, hpriv⟩ := (fetchViolation_iff (takeTurn s) s.pc).mp hfetch
      exact ⟨hturn, hclock, .inr (.inl ⟨hacv, hpriv⟩)⟩
    · have hu' : ((takeTurn s).setPc (s.pc + 1)).userMode = true := hu
      exact ⟨hturn, hclock, .inr (.inr ⟨i, hi, exec_leaves_userMode hu' hexec ht⟩)⟩
  · obtain ⟨-, -, hkeep, -⟩ := keyArrives_frame (takeTurn s)
    exact absurd hkeep hpsr
  · exact absurd rfl hpsr

end Sys2Proof.Machine
end

section
/-! PROOFS. The priority level: no entry into Supervisor mode by an instruction and no update in place changes it (R35,
R160, R166). -/

namespace Sys2Proof.Machine

/-- The parameters stay, and under PSR_STORE_POLICY = refuse the priority does. -/
def KeepsPriority (s t : State) : Prop :=
  t.params = s.params ∧ (s.params.psrStore = .refuse → t.priority = s.priority)

theorem KeepsPriority.refl (s : State) : KeepsPriority s s := ⟨rfl, fun _ => rfl⟩

theorem KeepsPriority.trans {s t u : State} (h1 : KeepsPriority s t) (h2 : KeepsPriority t u) : KeepsPriority s u :=
  ⟨h2.1.trans h1.1, fun hp => (h2.2 (h1.1 ▸ hp)).trans (h1.2 hp)⟩

/-- The PSR alone decides the priority. -/
theorem KeepsPriority.of_psr {s t : State} (hparams : t.params = s.params)
    (hpsr : s.params.psrStore = .refuse → t.psr = s.psr) : KeepsPriority s t :=
  ⟨hparams, fun hp => congrArg (BitVec.extractLsb' 8 3) (hpsr hp)⟩

/-- Two PSRs with the same bits 10 to 8 give the same priority. -/
theorem extract_priority_congr {p q : Word} (h : ∀ b, 8 ≤ b → b < 11 → p.getLsbD b = q.getLsbD b) :
    p.extractLsb' 8 3 = q.extractLsb' 8 3 := by
  apply BitVec.eq_of_getLsbD_eq
  intro k hk
  simp only [BitVec.getLsbD_extractLsb', h (8 + k) (by omega) (by omega)]

theorem keepsPriority_write {s t : State} {a v : Word} (e : memWrite s a v = .next t) : KeepsPriority s t := by
  obtain ⟨-, -, -, -, -, -, -, -, hparams, -, -, hpsr, -⟩ := memWrite_frame e
  exact .of_psr hparams hpsr

theorem keepsPriority_carriedInMode : CarriedInMode KeepsPriority where
  refl := .refl
  trans _ _ _ := .trans
  setReg _ _ _ := .of_psr rfl fun _ => rfl
  setPc _ _ := .of_psr rfl fun _ => rfl
  setcc s v := ⟨rfl, fun _ => extract_priority_congr fun b hb _ => setcc_samePsrAboveCodes s v b (by omega)⟩
  setKbsrReady _ _ := .of_psr rfl fun _ => rfl
  draw _ := .of_psr rfl fun _ => rfl
  write _ _ _ _ _ e := keepsPriority_write e

/-- Entering Supervisor mode clears PSR[15] alone (R130, R154). -/
theorem keepsPriority_enterSupervisor (s : State) : KeepsPriority s (enterSupervisor s) := by
  obtain ⟨-, -, -, hparams, -⟩ := enterSupervisor_rest s
  refine ⟨hparams, fun _ => ?_⟩
  rw [State.priority, enterSupervisor_psr]
  exact extract_priority_congr fun b _ hb => by simp [Psr.supervisor_bit, show b ≠ 15 by omega]

theorem keepsPriority_push {s t : State} {v : Word} (e : push s v = .next t) : KeepsPriority s t :=
  (keepsPriority_carriedInMode.setReg s _ _).trans (keepsPriority_write e)

theorem keepsPriority_pushAndVector {s t : State} {temp entry : Word} (e : pushAndVector s temp entry = .next t) :
    KeepsPriority s t := by
  obtain ⟨s1, hpush1, e⟩ := andThen_eq_next.mp e
  obtain ⟨s2, hpush2, e⟩ := andThen_eq_next.mp e
  obtain ⟨⟨w, s3⟩, hread, e⟩ := andThen_eq_next.mp e
  cases e
  have hload : KeepsPriority s2 (s3.setPc w) :=
    (keepsPriority_carriedInMode.read hread).trans (keepsPriority_carriedInMode.setPc _ _)
  exact (keepsPriority_push hpush1).trans ((keepsPriority_push hpush2).trans hload)

/-- An exception leaves the priority as it is (R160). -/
theorem keepsPriority_raise {c : Cause} {s t : State} (e : raise c s = .next t) : KeepsPriority s t :=
  (keepsPriority_carriedInMode.setPc s _).trans
    ((keepsPriority_enterSupervisor _).trans (keepsPriority_pushAndVector e))

theorem displayString_psr (s : State) (cs : List Byte) : (displayString s cs).psr = s.psr :=
  (congrArg State.psr (displayString_frame s cs).2 :)

theorem displayString_params (s : State) (cs : List Byte) : (displayString s cs).params = s.params :=
  (congrArg State.params (displayString_frame s cs).2 :)

/-- Reading a string leaves the PSR and the parameters. -/
theorem stringWords_frame {fuel : Nat} {a : Word} {s t : State} {ws : List Word}
    (e : stringWords fuel a s = .next (ws, t)) : t.psr = s.psr ∧ t.params = s.params := by
  induction fuel generalizing a s ws with
  | zero => cases e
  | succ n ih =>
    obtain ⟨⟨w, s1⟩, hread, e⟩ := andThen_eq_next.mp e
    obtain ⟨-, -, hpsr, -, -, -, -, -, -, -, -, -, -, -, hparams, -⟩ := memRead_frame hread
    dsimp only at e
    split at e
    · cases e
      exact ⟨hpsr, hparams⟩
    · obtain ⟨⟨ws', s2⟩, hrest, e⟩ := andThen_eq_next.mp e
      cases e
      exact ⟨(ih hrest).1.trans hpsr, (ih hrest).2.trans hparams⟩

theorem writeString_frame {chars : List Word → List Byte} {s t : State} (e : writeString chars s = .next t) :
    t.psr = s.psr ∧ t.params = s.params := by
  unfold writeString at e
  split at e
  · obtain ⟨⟨ws, s1⟩, hwords, e⟩ := andThen_eq_next.mp e
    cases e
    rw [displayString_psr, displayString_params]
    exact stringWords_frame hwords
  · cases e
    exact ⟨rfl, rfl⟩

/-- A routine's contract leaves the PSR (R133 to R139) and the parameters. -/
theorem trapContract_frame {vect : BitVec 8} {s t : State} (e : trapContract vect s = .next t) :
    t.psr = s.psr ∧ t.params = s.params := by
  unfold trapContract at e
  split at e
  · cases e; split <;> exact ⟨rfl, rfl⟩
  · cases e; split; exacts [⟨displayString_psr _ _, displayString_params _ _⟩, ⟨rfl, rfl⟩]
  · exact writeString_frame e
  · cases e; split; exacts [⟨displayString_psr _ _, displayString_params _ _⟩, ⟨rfl, rfl⟩]
  · exact writeString_frame e
  · cases e; split <;> exact ⟨rfl, rfl⟩
  · cases e

/-- TRAP, under both values of OS_IMAGE. -/
theorem keepsPriority_trap {vect : BitVec 8} {s t : State} (e : execTrap vect s = .next t) : KeepsPriority s t := by
  unfold execTrap at e
  split at e
  · exact (keepsPriority_enterSupervisor s).trans (keepsPriority_pushAndVector e)
  · obtain ⟨hpsr, hparams⟩ := trapContract_frame e
    exact .of_psr hparams fun _ => hpsr

/-- Every instruction but RTI. -/
theorem keepsPriority_exec {i : Instr} {s t : State} (hi : i ≠ .rti) (e : exec i s = .next t) :
    KeepsPriority s t := by
  cases hsys : isSystem i with
  | false =>
    rcases keepsPriority_carriedInMode.exec hsys e with hkeep | ⟨-, -, hraise⟩
    · exact hkeep
    · exact keepsPriority_raise hraise
  | true =>
    cases i with
    | trap vect => exact keepsPriority_trap e
    | reserved bits => exact keepsPriority_raise (c := .illegalOpcode) e
    | rti => exact absurd rfl hi
    | _ => cases hsys

/-- Settles O55. -/
theorem onlyRtiChangesThePriority : Obligations.OnlyRtiChangesThePriority := fun _ _ _ hpolicy e hi =>
  (keepsPriority_exec hi e).2 hpolicy

end Sys2Proof.Machine
end

section
/-! PROOFS. Checked accesses: where the test fails, where it passes, and the instructions that are made of them (R55 to
R57 of 20_memory.md; R110 to R118 of 41_data_movement.md). -/

namespace Sys2Proof.Machine

/-- Settles O17. -/
theorem privilegedAddresses : Obligations.PrivilegedAddresses := by
  intro a
  simp [privileged]

/-- What the access test tests (R56, R57). -/
theorem accessViolation_iff (s : State) (a : Word) :
    accessViolation s a = true ↔ s.userMode = true ∧ privileged a = true := by
  simp [accessViolation]

/-- Where the test fails, the exception replaces the read and what follows it (R56). -/
theorem checkedRead_violation {s : State} {a : Word} (k : Word → State → Result State)
    (h : accessViolation s a = true) : checkedRead s a k = raise .acv s := if_pos h

/-- Where the test fails, the exception replaces the write (R57). -/
theorem checkedWrite_violation {s : State} {a : Word} (v : Word) (h : accessViolation s a = true) :
    checkedWrite s a v = raise .acv s := if_pos h

/-- Where the test passes, a checked write is the plain write (R57). -/
theorem checkedWrite_allowed {s : State} {a : Word} (v : Word) (h : accessViolation s a = false) :
    checkedWrite s a v = memWrite s a v := by
  simp [checkedWrite, h]

/-- A sequence is decided by what its second part does on the answers the first can give. -/
theorem andThen_congr {α β : Type} {o : Result α} {k k' : α → Result β} (h : ∀ a, o = .next a → k a = k' a) :
    andThen o k = andThen o k' := by
  cases o with
  | next a => exact h a rfl
  | fault r => rfl
  | refused r => rfl

section Equations
variable (r base : Reg) (off9 : BitVec 9) (off6 : BitVec 6) (s : State)

/-- LD (R111). -/
theorem exec_ld : exec (.ld r off9) s = checkedRead s (pcRelative s off9) fun v s1 => .next (writeResult s1 r v) := rfl

/-- LDR (R113). -/
theorem exec_ldr :
    exec (.ldr r base off6) s = checkedRead s (baseOffset s base off6) fun v s1 => .next (writeResult s1 r v) := rfl

/-- LDI (R112). -/
theorem exec_ldi :
    exec (.ldi r off9) s = checkedRead s (pcRelative s off9) fun a s1 =>
      checkedRead s1 a fun v s2 => .next (writeResult s2 r v) := rfl

/-- ST (R115). -/
theorem exec_st : exec (.st r off9) s = checkedWrite s (pcRelative s off9) (s.reg r) := rfl

/-- STR (R117). -/
theorem exec_str : exec (.str r base off6) s = checkedWrite s (baseOffset s base off6) (s.reg r) := rfl

/-- STI (R116). -/
theorem exec_sti :
    exec (.sti r off9) s = checkedRead s (pcRelative s off9) fun a s1 => checkedWrite s1 a (s1.reg r) := rfl

end Equations

/-- The data addresses of the instructions with one address. -/
theorem touchesPrivileged_single {i : Instr} {s : State} {a : Word} (h : dataAddresses i s = [a]) :
    touchesPrivileged i s = privileged a := by
  simp [touchesPrivileged, h]

/-- An instruction with two data addresses touches privileged memory exactly when one of them is privileged. -/
theorem touchesPrivileged_pair {i : Instr} {s : State} {a b : Word} (h : dataAddresses i s = [a, b]) :
    touchesPrivileged i s = (privileged a || privileged b) := by
  simp [touchesPrivileged, h]

/-- An indirect access whose pointer or whose pointer's address is privileged takes the exception, and nothing of what it
reads or writes remains (LDI and STI; D18, log 35). -/
theorem checkedRead_indirect_violation {s : State} {a : Word} {k : Word → State → Result State}
    (hu : s.userMode = true) (hp : privileged a = true ∨ privileged (s.word a) = true)
    (hk : accessViolation s (s.word a) = true → k (s.word a) s = raise .acv s) : checkedRead s a k = raise .acv s := by
  cases ha : privileged a with
  | true => exact checkedRead_violation k ((accessViolation_iff s a).mpr ⟨hu, ha⟩)
  | false =>
    have hpointer : privileged (s.word a) = true := by simpa [ha] using hp
    rw [checkedRead_unprivileged k ha]
    exact hk ((accessViolation_iff s _).mpr ⟨hu, hpointer⟩)

/-- In User mode an instruction with a privileged data address does nothing but take the ACV exception. -/
theorem exec_of_touchesPrivileged {i : Instr} {s : State} (hu : s.userMode = true)
    (ht : touchesPrivileged i s = true) : exec i s = raise .acv s := by
  have violation {a : Word} (ha : privileged a = true) : accessViolation s a = true :=
    (accessViolation_iff s a).mpr ⟨hu, ha⟩
  cases i with
  | ld dr off =>
    rw [touchesPrivileged_single rfl] at ht
    rw [exec_ld, checkedRead_violation _ (violation ht)]
  | ldr dr base off =>
    rw [touchesPrivileged_single rfl] at ht
    rw [exec_ldr, checkedRead_violation _ (violation ht)]
  | st sr off =>
    rw [touchesPrivileged_single rfl] at ht
    rw [exec_st, checkedWrite_violation _ (violation ht)]
  | str sr base off =>
    rw [touchesPrivileged_single rfl] at ht
    rw [exec_str, checkedWrite_violation _ (violation ht)]
  | ldi dr off =>
    rw [touchesPrivileged_pair rfl, Bool.or_eq_true] at ht
    rw [exec_ldi, checkedRead_indirect_violation hu ht fun hv => checkedRead_violation _ hv]
  | sti sr off =>
    rw [touchesPrivileged_pair rfl, Bool.or_eq_true] at ht
    rw [exec_sti, checkedRead_indirect_violation hu ht fun hv => checkedWrite_violation _ hv]
  | _ => cases ht

/-- In Supervisor mode an indirect access is two plain accesses, whatever the addresses: the first read leaves the mode,
so the second test passes too (R118; D18, log 35). -/
theorem checkedRead_indirect_supervisor {s : State} {a : Word} {k k' : Word → State → Result State}
    (hs : s.userMode = false)
    (hk : ∀ p s1, s1.userMode = false → s1.regs = s.regs → k p s1 = k' p s1) :
    checkedRead s a k = andThen (memRead s a) fun p => k' p.1 p.2 := by
  rw [checkedRead_supervisor k hs]
  refine andThen_congr fun p hread => ?_
  obtain ⟨hregs, -, hpsr, -⟩ := memRead_frame hread
  exact hk p.1 p.2 ((userMode_of_psr_eq hpsr).trans hs) hregs

/-- Settles O28. -/
theorem userAccessToPrivilegedMemoryIsAcv : Obligations.UserAccessToPrivilegedMemoryIsAcv := by
  refine ⟨fun i s => exec_of_touchesPrivileged, fun r base off9 off6 s hs => ⟨?ld, ?ldr, ?ldi, ?st, ?str, ?sti⟩⟩
  case ld => rw [exec_ld, checkedRead_supervisor _ hs]
  case ldr => rw [exec_ldr, checkedRead_supervisor _ hs]
  case ldi => rw [exec_ldi, checkedRead_indirect_supervisor hs fun p s1 hs1 _ => checkedRead_supervisor _ hs1]
  case st => rw [exec_st, checkedWrite_supervisor _ hs]
  case str => rw [exec_str, checkedWrite_supervisor _ hs]
  case sti =>
    rw [exec_sti]
    refine checkedRead_indirect_supervisor (k' := fun a s1 => memWrite s1 a (s.reg r)) hs fun p s1 hs1 hregs => ?_
    rw [checkedWrite_supervisor _ hs1, State.reg, hregs]
    rfl

end Sys2Proof.Machine
end

section
/-! PROOFS. The fetch: what stops it before the word is read, and the word it reads after a store (R30, R61, R71). -/

namespace Sys2Proof.Machine

/-- With the clock running and no interrupt taken, a step of the processor fetches and executes (R30). -/
theorem step_fetches {s : State} (hturn : turn s = .processor) (hclock : s.clockEnabled = true)
    (hint : ¬(s.kbsrReady = true ∧ s.kbsrIe = true ∧ s.priority.toNat < 4)) :
    step s = fetchAndExecute (takeTurn s) := by
  have hclock' : (takeTurn s).clockEnabled = true := hclock
  have hint' : ¬ interruptCondition (takeTurn s) = true := mt (interruptCondition_iff s).mp hint
  rw [step_processor hturn, processorStep, if_pos hclock', if_neg hint']

/-- A fetch that violates takes the exception with the incremented PC, before the word is read (R30, R61). -/
theorem fetchAndExecute_violation {s : State} (h : fetchViolation s s.pc = true) :
    fetchAndExecute s = raise .acv (s.setPc (s.pc + 1)) := if_pos h

/-- A fetch from a device address that does not violate has no meaning (U11, D22). -/
theorem fetchAndExecute_device {s : State} (h : fetchViolation s s.pc = false) (hd : isDevice s.pc = true) :
    fetchAndExecute s = .refused .fetchFromDevice := by
  simp [fetchAndExecute, h, hd]

/-- Settles O9. -/
theorem fetchOutsideAllowedMemory : Obligations.FetchOutsideAllowedMemory := by
  intro s hturn hclock hint
  rw [step_fetches hturn hclock hint]
  constructor
  · intro hacv hu hpriv
    exact fetchAndExecute_violation ((fetchViolation_iff (takeTurn s) s.pc).mpr ⟨hacv, hu, hpriv⟩)
  · intro hdev hallowed
    have hfetch : fetchViolation (takeTurn s) s.pc = false := by
      refine Bool.eq_false_iff.mpr fun hv => ?_
      obtain ⟨hacv, hu, -⟩ := (fetchViolation_iff (takeTurn s) s.pc).mp hv
      rcases hallowed with hsup | hoff
      · exact Bool.false_ne_true (hsup.symm.trans hu)
      · exact Bool.false_ne_true (hoff.symm.trans hacv)
    exact fetchAndExecute_device hfetch hdev

/-- After a plain write the word at its address is the word written. -/
theorem memWrite_plain_word {s t : State} {a v : Word} (hwf : s.mem.wf = true) (hd : isDevice a = false)
    (e : memWrite s a v = .next t) : t.word a = v := by
  rw [memWrite_plain v hd] at e
  cases e
  exact Memory.read_write_same hwf a.toNat v

/-- Settles O59: the store leaves the PC, so the word the next fetch reads is the one stored. -/
theorem storeIsSeenByTheNextFetch : Obligations.StoreIsSeenByTheNextFetch := by
  intro sr off s t i hwf haddr e hex hdec hallowed
  have hv : accessViolation s (pcRelative s off) = false := by
    rcases hallowed with hs | hp
    · simp [accessViolation, hs]
    · simp [accessViolation, haddr, hp]
  have hwrite : memWrite s s.pc (s.reg sr) = .next t := by
    rw [← haddr, ← checkedWrite_allowed _ hv]
    exact e
  obtain ⟨-, hpc, -⟩ := memWrite_frame hwrite
  have hplain : isDevice s.pc = false := by
    obtain ⟨-, -, -, -, hdev⟩ := hex
    rwa [hpc] at hdev
  have hword : t.word t.pc = s.reg sr := by
    rw [hpc]
    exact memWrite_plain_word hwf hplain hwrite
  rw [← hpc]
  exact stepRunsTheDecodedInstruction t i hex (by rwa [hword])

end Sys2Proof.Machine
end

section
/-! PROOFS. Loads from the device registers and accesses to the device addresses without one (R62, R63 of 20_memory.md;
R172 to R178 of 60_exceptions.md). -/

namespace Sys2Proof.Machine

/-- At a device address a read is the device's (R58). -/
theorem memRead_device {s : State} {a : Word} (h : isDevice a = true) : memRead s a = deviceRead s a := if_pos h

/-- At a device address a write is the device's (R59). -/
theorem memWrite_device {s : State} {a : Word} (v : Word) (h : isDevice a = true) :
    memWrite s a v = deviceWrite s a v := if_pos h

/-- The word x8000 is bit 15 alone. -/
theorem ready_bit (c : Bool) (b : Nat) :
    BitVec.getLsbD (if c then (0x8000 : Word) else 0) b = (decide (b = 15) && c) := by
  have hbit : BitVec.getLsbD (0x8000 : Word) b = decide (b = 15) := by
    rw [show (0x8000 : Word) = BitVec.twoPow 16 15 from rfl, BitVec.getLsbD_twoPow]
    simp [eq_comm]
  cases c with
  | false => simp
  | true => simpa using hbit

/-- KBSR bit by bit: the ready bit, the interrupt enable bit, and zeros (R172). -/
theorem kbsrWord_bit (s : State) (b : Nat) :
    (kbsrWord s).getLsbD b =
      ((decide (b = 15) && s.kbsrReady) || (decide (b = s.params.kbdIeBit.val) && s.kbsrIe)) := by
  have hie : BitVec.getLsbD (if s.kbsrIe then BitVec.twoPow 16 s.params.kbdIeBit.val else (0 : Word)) b =
      (decide (b = s.params.kbdIeBit.val) && s.kbsrIe) := by
    have hlt : s.params.kbdIeBit.val < 16 := by omega
    cases s.kbsrIe
    · simp
    · simp [BitVec.getLsbD_twoPow, hlt, eq_comm]
  rw [kbsrWord, BitVec.getLsbD_or, ready_bit, hie]

/-- DSR bit by bit: the ready bit and zeros (R175). -/
theorem dsrWord_bit (s : State) (b : Nat) : (dsrWord s).getLsbD b = (decide (b = 15) && s.dsrReady) :=
  ready_bit s.dsrReady b

/-- Settles O29: each of the six addresses is one branch of `deviceRead`. -/
theorem deviceRegisterLoads : Obligations.DeviceRegisterLoads := by
  intro s
  refine ⟨⟨kbsrWord s, rfl, kbsrWord_bit s⟩, ⟨s.setKbsrReady false, rfl, ?kbdr⟩, ⟨dsrWord s, rfl, dsrWord_bit s⟩,
    rfl, rfl, rfl⟩
  exact ⟨rfl, rfl, rfl, rfl, ⟨rfl, rfl⟩, rfl, rfl, rfl, rfl, rfl, rfl, rfl, ⟨rfl, rfl, rfl, rfl⟩⟩

/-- An address without a register is none of the six (R62). -/
theorem ne_deviceAddrs {a : Word} (h : deviceRegisters.contains a.toNat = false) :
    a ≠ kbsrAddr ∧ a ≠ kbdrAddr ∧ a ≠ dsrAddr ∧ a ≠ ddrAddr ∧ a ≠ psrAddr ∧ a ≠ mcrAddr := by
  have hne {b : Word} (hb : deviceRegisters.contains b.toNat = true) : a ≠ b := fun e =>
    Bool.false_ne_true ((e ▸ h).symm.trans hb)
  exact ⟨hne rfl, hne rfl, hne rfl, hne rfl, hne rfl, hne rfl⟩

/-- A load from an address without a register falls through to UNASSIGNED_IO_POLICY (R63). -/
theorem memRead_unassigned (s : State) {a : Word} (hd : isDevice a = true)
    (ha : deviceRegisters.contains a.toNat = false) : memRead s a = unassignedRead s a := by
  rw [memRead_device hd]
  simp [deviceRead, ne_deviceAddrs ha]

/-- A store to an address without a register falls through to UNASSIGNED_IO_POLICY (R63). -/
theorem memWrite_unassigned (s : State) {a : Word} (v : Word) (hd : isDevice a = true)
    (ha : deviceRegisters.contains a.toNat = false) : memWrite s a v = unassignedWrite s a v := by
  rw [memWrite_device v hd]
  simp [deviceWrite, ne_deviceAddrs ha]

/-- Writing one word of a canonical memory is a store's result. -/
theorem storeResult_setMem {s : State} (hwf : s.mem.wf = true) (a v : Word) :
    StoreResult s (s.setMem (s.mem.write a.toNat v)) a v :=
  ⟨Memory.read_write_same hwf a.toNat v, fun _ hb => Memory.read_write_ne _ _ fun e => hb (BitVec.toNat_inj.mp e),
    rfl, rfl, rfl, ⟨rfl, rfl⟩, ⟨rfl, rfl, rfl, rfl, rfl, rfl, rfl⟩, rfl, rfl, rfl, rfl⟩

/-- Settles O32. -/
theorem unassignedDeviceAddresses : Obligations.UnassignedDeviceAddresses := by
  intro s a v hd ha
  rw [memRead_unassigned s hd ha, memWrite_unassigned s v hd ha]
  unfold unassignedRead unassignedWrite
  refine ⟨fun refuse => ?_, fun anyValue => ?_, fun memory hwf => ?_⟩
  · rw [refuse]
    exact ⟨rfl, rfl⟩
  · rw [anyValue]
    exact ⟨rfl, rfl⟩
  · rw [memory]
    exact ⟨rfl, _, rfl, storeResult_setMem hwf a v⟩

end Sys2Proof.Machine
end

section
/-! PROOFS. The invariant: memory canonical, nothing behind a device register, KBDR[15:8] = 0 (R41, R50, R58). -/

namespace Sys2Proof.Machine

/-- A write lists no location but the one written. -/
theorem Memory.mem_write {m : Memory} {a : Nat} {v : Word} {c : Nat × Word} (h : c ∈ m.write a v) :
    c ∈ m ∨ c.1 = a := by
  induction m with
  | nil =>
    unfold Memory.write at h
    split at h
    · exact .inl h
    · exact .inr (congrArg Prod.fst (List.mem_singleton.mp h))
  | cons p m ih =>
    obtain ⟨b, w⟩ := p
    unfold Memory.write at h
    split at h
    · split at h
      · exact .inl h
      · exact (List.mem_cons.mp h).symm.imp_right (congrArg Prod.fst)
    · split at h
      · split at h
        · exact .inl (.tail _ h)
        · exact (List.mem_cons.mp h).symm.imp (.tail _) (congrArg Prod.fst)
      · rcases List.mem_cons.mp h with hhead | htail
        · exact .inl (hhead ▸ .head _)
        · exact (ih htail).imp_left (.tail _)

/-- An address without a register may be listed under UNASSIGNED_IO_POLICY = memory (R63). -/
theorem mayHold_of_unassigned {p : Config.Params} {a : Nat} (hp : p.unassignedIo = .memory)
    (ha : deviceRegisters.contains a = false) : mayHold p a = true := by
  simp only [mayHold, hp, ha, Bool.not_false, decide_true, Bool.and_self, Bool.or_true]

/-- An address of plain memory may be listed (R52). -/
theorem mayHold_of_plain {p : Config.Params} {a : Word} (h : isDevice a = false) : mayHold p a.toNat = true :=
  mayHold_of_lt (by simpa [isDevice] using h)

/-- A word listed where it may be keeps the invariant. -/
theorem State.Inv.setMem_write {s : State} {a : Word} (hs : s.Inv) (ha : mayHold s.params a.toNat = true) (v : Word) :
    (s.setMem (s.mem.write a.toNat v)).Inv := by
  obtain ⟨hwf, hlisted, hkbdr⟩ := hs
  refine ⟨Memory.wf_write hwf a.isLt v, fun c hc => ?_, hkbdr⟩
  rcases Memory.mem_write hc with hold | hnew
  · exact hlisted c hold
  · exact hnew ▸ ha

theorem State.Inv.memWrite {s t : State} {a v : Word} (hs : s.Inv) (e : memWrite s a v = .next t) : t.Inv := by
  rcases memWrite_cases e with ⟨hplain, rfl⟩ | ⟨-, hpolicy, hfree, rfl⟩ | ⟨-, rfl⟩ | ⟨-, rfl⟩ | ⟨-, rfl | rfl⟩ |
    ⟨-, -, rfl⟩ | ⟨-, rfl⟩
  · exact hs.setMem_write (mayHold_of_plain hplain) v
  · exact hs.setMem_write (mayHold_of_unassigned hpolicy hfree) v
  all_goals exact hs

/-- The invariant speaks of memory, KBDR and the parameters alone, so every other update keeps it. -/
theorem inv_carried : Carried fun s t => s.Inv → t.Inv where
  refl _ := id
  trans _ _ _ h1 h2 := h2 ∘ h1
  setReg _ _ _ := id
  setPc _ _ := id
  setPsr _ _ := id
  setSavedSsp _ _ := id
  setSavedUsp _ _ := id
  setKbsrReady _ _ := id
  setMcr _ _ := id
  draw _ := id
  say _ _ _ _ := id
  write _ _ _ _ e hs := hs.memWrite e

/-- A key is an eight-bit code, zero-extended (R171). -/
theorem State.Inv.keyArrives {s : State} (hs : s.Inv) : (keyArrives s).Inv := by
  rcases keyArrives_cases s with h | ⟨c, rest, -, h⟩ <;> rw [h]
  · exact hs
  · obtain ⟨hwf, hlisted, -⟩ := hs
    exact ⟨hwf, hlisted, (zext16_toNat (by decide) c).trans_lt c.isLt⟩

/-- Settles O49: the processor's moves are carried, the keyboard writes an eight-bit code, the display one flag. -/
theorem everyStepKeepsTheInvariant : Obligations.EveryStepKeepsTheInvariant := by
  intro s t hs e
  have hturn : (takeTurn s).Inv := hs
  rcases step_cases e with ⟨-, hproc⟩ | ⟨-, rfl⟩ | ⟨-, rfl⟩
  · exact inv_carried.processorStep hproc hturn
  · exact hturn.keyArrives
  · exact hturn

end Sys2Proof.Machine
end

section
/-! PROOFS. User mode: an instruction either enters Supervisor mode or has an effect that its process's view decides and
that reaches unprivileged memory alone (R55 to R57 of 20_memory.md; R170 of 60_exceptions.md). -/

namespace Sys2Proof.Machine

/-- What an instruction without a privileged data address does, as data: the values it writes are computed already. A
store carries the proof that its address is unprivileged. -/
inductive Effect where
  /-- The operate instructions and the loads. -/
  | result (dr : Reg) (v : Word)
  /-- LEA. -/
  | address (dr : Reg) (v : Word)
  /-- BR, JMP and RET. -/
  | jump (target : Word)
  /-- JSR and JSRR. -/
  | link (target : Word)
  /-- The stores. -/
  | store (a v : Word) (unprivileged : privileged a = false)

/-- The state an effect leads to. -/
def Effect.apply : Effect → State → State
  | .result dr v, s => writeResult s dr v
  | .address dr v, s => s.setReg dr v
  | .jump target, s => s.setPc target
  | .link target, s => linkAndJump s target
  | .store a v _, s => s.setMem (s.mem.write a.toNat v)

theorem UserEqual.refl (s : State) : UserEqual s s := ⟨rfl, rfl, rfl, rfl, fun _ _ => rfl⟩

section
variable {s s' : State} (h : UserEqual s s')
include h

theorem UserEqual.pc : s.pc = s'.pc := by
  obtain ⟨-, hpc, -⟩ := h
  exact hpc

theorem UserEqual.reg (r : Reg) : s.reg r = s'.reg r := congrArg (Regs.get · r) h.1

theorem UserEqual.word {a : Word} (ha : privileged a = false) : s.word a = s'.word a := by
  obtain ⟨-, -, -, -, hwords⟩ := h
  exact hwords a ha

theorem UserEqual.pcRelative {w : Nat} (off : BitVec w) : pcRelative s off = pcRelative s' off :=
  congrArg (· + sext16 off) h.pc

theorem UserEqual.baseOffset (base : Reg) (off : BitVec 6) : baseOffset s base off = baseOffset s' base off :=
  congrArg (· + sext16 off) (h.reg base)

/-- The condition codes are in the view. -/
theorem UserEqual.branchTaken (n z p : Bool) : branchTaken s n z p = branchTaken s' n z p := by
  obtain ⟨-, -, hpsr, -⟩ := h
  simp [Machine.branchTaken, State.flagN, State.flagZ, State.flagP, hpsr]

theorem UserEqual.setReg (r : Reg) (v : Word) : UserEqual (s.setReg r v) (s'.setReg r v) := by
  obtain ⟨hregs, hrest⟩ := h
  exact ⟨congrArg (Regs.set · r v) hregs, hrest⟩

theorem UserEqual.setPc (v : Word) : UserEqual (s.setPc v) (s'.setPc v) := by
  obtain ⟨hregs, -, hrest⟩ := h
  exact ⟨hregs, rfl, hrest⟩

theorem UserEqual.setcc (v : Word) : UserEqual (s.setcc v) (s'.setcc v) := by
  obtain ⟨hregs, hpc, hpsr, hrest⟩ := h
  exact ⟨hregs, hpc, congrArg (Psr.withCC · (ccOf v)) hpsr, hrest⟩

theorem UserEqual.linkAndJump (target : Word) : UserEqual (linkAndJump s target) (linkAndJump s' target) := by
  rw [Machine.linkAndJump, Machine.linkAndJump, h.pc]
  exact (h.setPc target).setReg .r7 s'.pc

/-- The same word stored in both memories: each reads it back, and every other location as before. -/
theorem UserEqual.store (hwf : s.mem.wf = true) (hwf' : s'.mem.wf = true) (a v : Word) :
    UserEqual (s.setMem (s.mem.write a.toNat v)) (s'.setMem (s'.mem.write a.toNat v)) := by
  obtain ⟨hregs, hpc, hpsr, hparams, hwords⟩ := h
  obtain ⟨hsame, hother, -⟩ := storeResult_setMem hwf a v
  obtain ⟨hsame', hother', -⟩ := storeResult_setMem hwf' a v
  refine ⟨hregs, hpc, hpsr, hparams, fun b hb => ?_⟩
  by_cases hba : b = a
  · rw [hba, hsame, hsame']
  · rw [hother b hba, hother' b hba, hwords b hb]

/-- The same effect on two states with the same view gives the same view again. -/
theorem UserEqual.apply (hwf : s.mem.wf = true) (hwf' : s'.mem.wf = true) (f : Effect) :
    UserEqual (f.apply s) (f.apply s') := by
  cases f with
  | result dr v => exact (h.setReg dr v).setcc v
  | address dr v => exact h.setReg dr v
  | jump target => exact h.setPc target
  | link target => exact h.linkAndJump target
  | store a v _ => exact h.store hwf hwf' a v

end

/-- No effect reaches a privileged location or a device register. -/
theorem Effect.apply_frame (f : Effect) (s : State) :
    (∀ a : Word, privileged a = true → (f.apply s).word a = s.word a) ∧ SameDevices s (f.apply s) := by
  refine ⟨fun a ha => ?_, by cases f <;> exact ⟨rfl, rfl, rfl, rfl, rfl, rfl, rfl⟩⟩
  cases f with
  | store b v hb =>
    refine Memory.read_write_ne _ _ fun e => ?_
    rw [BitVec.toNat_inj.mp e, hb] at ha
    cases ha
  | _ => rfl

/-- The instruction's effect from every state with the view of s is one and the same. -/
def HasEffect (i : Instr) (s : State) (f : Effect) : Prop :=
  ∀ s', UserEqual s s' → exec i s' = .next (f.apply s')

/-- A load from an unprivileged address: the address and the word there are in the view. -/
theorem checkedRead_result {s s' : State} {a : Word} (h : UserEqual s s') (ha : privileged a = false) (dr : Reg) :
    checkedRead s' a (fun v s1 => .next (writeResult s1 dr v)) =
      .next ((Effect.result dr (s.word a)).apply s') := by
  rw [checkedRead_unprivileged _ ha, ← h.word ha]
  rfl

/-- A store to an unprivileged address: the address and the word stored are in the view. -/
theorem checkedWrite_store {s s' : State} {a : Word} (h : UserEqual s s') (ha : privileged a = false) (sr : Reg) :
    checkedWrite s' a (s'.reg sr) = .next ((Effect.store a (s.reg sr) ha).apply s') := by
  rw [checkedWrite_unprivileged _ ha, h.reg sr]
  rfl

/-- An instruction that is not TRAP, RTI or the reserved opcode and has no privileged data address has an effect, in
both modes: its operands and its addresses are in the view. -/
theorem exists_hasEffect {i : Instr} {s : State} (hi : isSystem i = false) (ht : touchesPrivileged i s = false) :
    ∃ f, HasEffect i s f := by
  cases i with
  | addReg dr sr1 sr2 =>
    exact ⟨.result dr (s.reg sr1 + s.reg sr2), fun s' h => by rw [h.reg sr1, h.reg sr2]; rfl⟩
  | addImm dr sr1 imm5 => exact ⟨.result dr (s.reg sr1 + sext16 imm5), fun s' h => by rw [h.reg sr1]; rfl⟩
  | andReg dr sr1 sr2 =>
    exact ⟨.result dr (s.reg sr1 &&& s.reg sr2), fun s' h => by rw [h.reg sr1, h.reg sr2]; rfl⟩
  | andImm dr sr1 imm5 => exact ⟨.result dr (s.reg sr1 &&& sext16 imm5), fun s' h => by rw [h.reg sr1]; rfl⟩
  | notReg dr sr => exact ⟨.result dr (~~~s.reg sr), fun s' h => by rw [h.reg sr]; rfl⟩
  | br n z p off =>
    refine ⟨.jump (if branchTaken s n z p then pcRelative s off else s.pc), fun s' h => ?_⟩
    rw [h.branchTaken, h.pcRelative, h.pc]
    show Host.Outcome.next _ = _
    split <;> rfl
  | ret => exact ⟨.jump (s.reg .r7), fun s' h => by rw [h.reg .r7]; rfl⟩
  | jmp base => exact ⟨.jump (s.reg base), fun s' h => by rw [h.reg base]; rfl⟩
  | jsr off => exact ⟨.link (pcRelative s off), fun s' h => by rw [h.pcRelative]; rfl⟩
  | jsrr base => exact ⟨.link (s.reg base), fun s' h => by rw [h.reg base]; rfl⟩
  | lea dr off => exact ⟨.address dr (pcRelative s off), fun s' h => by rw [h.pcRelative]; rfl⟩
  | ld dr off =>
    rw [touchesPrivileged_single rfl] at ht
    exact ⟨_, fun s' h => by rw [exec_ld, ← h.pcRelative, checkedRead_result h ht]⟩
  | ldr dr base off =>
    rw [touchesPrivileged_single rfl] at ht
    exact ⟨_, fun s' h => by rw [exec_ldr, ← h.baseOffset, checkedRead_result h ht]⟩
  | ldi dr off =>
    rw [touchesPrivileged_pair rfl, Bool.or_eq_false_iff] at ht
    obtain ⟨hpointer, hdata⟩ := ht
    exact ⟨_, fun s' h => by
      rw [exec_ldi, ← h.pcRelative, checkedRead_unprivileged _ hpointer, ← h.word hpointer, checkedRead_result h hdata]⟩
  | st sr off =>
    rw [touchesPrivileged_single rfl] at ht
    exact ⟨_, fun s' h => by rw [exec_st, ← h.pcRelative, checkedWrite_store h ht]⟩
  | str sr base off =>
    rw [touchesPrivileged_single rfl] at ht
    exact ⟨_, fun s' h => by rw [exec_str, ← h.baseOffset, checkedWrite_store h ht]⟩
  | sti sr off =>
    rw [touchesPrivileged_pair rfl, Bool.or_eq_false_iff] at ht
    obtain ⟨hpointer, hdata⟩ := ht
    exact ⟨_, fun s' h => by
      rw [exec_sti, ← h.pcRelative, checkedRead_unprivileged _ hpointer, ← h.word hpointer, checkedWrite_store h hdata]⟩
  | rti => cases hi
  | trap vect => cases hi
  | reserved bits => cases hi

/-- An entry into Supervisor mode ended in t: some PC and the PSR pushed, and the PC loaded from an entry of the vector
tables (R130, R154). -/
def Enters (s t : State) : Prop :=
  ∃ pc entry : Word, isDevice entry = false ∧ pushAndVector (enterSupervisor (s.setPc pc)) s.psr entry = .next t

theorem raise_enters {c : Cause} {s t : State} (e : raise c s = .next t) : Enters s t :=
  ⟨exceptionPc s, 0x0100 + zext16 c.vector, by cases c <;> decide, e⟩

theorem trapThroughTable_enters {vect : BitVec 8} {s t : State} (e : trapThroughTable vect s = .next t) :
    Enters s t := by
  have hentry : (zext16 vect).toNat < 0xFE00 := by
    rw [zext16_toNat (by decide)]
    omega
  exact ⟨s.pc, zext16 vect, isDevice_table hentry, e⟩

/-- Everything an instruction can do in User mode under OS_IMAGE = concrete: an entry into Supervisor mode, or its
effect. -/
theorem exec_userMode_cases {i : Instr} {s t : State} (hu : s.userMode = true)
    (hos : s.params.osImage = .concrete) (e : exec i s = .next t) : Enters s t ∨ ∃ f, HasEffect i s f := by
  cases hi : isSystem i with
  | false =>
    cases ht : touchesPrivileged i s with
    | true => exact .inl (raise_enters ((exec_of_touchesPrivileged hu ht).symm.trans e))
    | false => exact .inr (exists_hasEffect hi ht)
  | true =>
    left
    cases i with
    | trap vect =>
      have htrap : exec (.trap vect) s = trapThroughTable vect s := by
        show execTrap vect s = _
        rw [execTrap, hos]
      exact trapThroughTable_enters (htrap.symm.trans e)
    | rti =>
      have hrti : exec .rti s = raise .privilegeModeViolation s := if_pos hu
      exact raise_enters (hrti.symm.trans e)
    | reserved bits => exact raise_enters (c := .illegalOpcode) e
    | _ => cases hi

/-- What a push leaves unchanged, wherever the stack lies (R152). -/
theorem push_frame {s t : State} {v : Word} (e : push s v = .next t) :
    t.reg .r6 = s.reg .r6 - 1 ∧ t.params = s.params ∧ (s.params.psrStore = .refuse → t.psr = s.psr) ∧
    ∀ a : Word, a ≠ s.reg .r6 - 1 → t.word a = s.word a := by
  obtain ⟨hregs, -, -, -, -, -, -, -, hparams, -, -, hpsr, hwords⟩ := memWrite_frame e
  refine ⟨?_, hparams, hpsr, hwords⟩
  rw [State.reg, hregs]
  simp

/-- What the end of an entry leaves unchanged, wherever the stack lies: all but two words of memory, and the PSR where no
store can reach it. -/
theorem pushAndVector_frame {s t : State} {temp entry : Word} (e : pushAndVector s temp entry = .next t) :
    (s.params.psrStore = .refuse → t.psr = s.psr) ∧
    ∀ a : Word, a ≠ s.reg .r6 - 1 → a ≠ s.reg .r6 - 2 → t.word a = s.word a := by
  obtain ⟨s1, hpush1, e⟩ := andThen_eq_next.mp e
  obtain ⟨s2, hpush2, e⟩ := andThen_eq_next.mp e
  obtain ⟨⟨w, s3⟩, hread, e⟩ := andThen_eq_next.mp e
  cases e
  obtain ⟨hr6, hparams, hpsr1, hwords1⟩ := push_frame hpush1
  obtain ⟨-, -, hpsr2, hwords2⟩ := push_frame hpush2
  obtain ⟨-, -, hpsr3, -, -, hmem3, -⟩ := memRead_frame hread
  have hsp : s1.reg .r6 - 1 = s.reg .r6 - 2 := by
    rw [hr6, BitVec.sub_sub]
    rfl
  refine ⟨fun hp => hpsr3.trans ((hpsr2 (hparams ▸ hp)).trans (hpsr1 hp)), fun a h1 h2 => ?_⟩
  calc s3.word a = s2.word a := congrArg (Memory.read · a.toNat) hmem3
    _ = s1.word a := hwords2 a (hsp ▸ h2)
    _ = s.word a := hwords1 a h1

/-- Onto plain memory, the end of an entry leaves the devices. -/
theorem pushAndVector_sameDevices {s t : State} {temp entry : Word} (h1 : isDevice (s.reg .r6 - 1) = false)
    (h2 : isDevice (s.reg .r6 - 2) = false) (he : isDevice entry = false)
    (e : pushAndVector s temp entry = .next t) : SameDevices s t := by
  rw [pushAndVector_plain temp entry h1 h2 he] at e
  cases e
  exact ⟨rfl, rfl, rfl, rfl, rfl, rfl, rfl⟩

/-- From User mode an entry's stack pointer is Saved_SSP (R23, R154). -/
theorem enterSupervisor_r6_user {s : State} (hu : s.userMode = true) (pc : Word) :
    (enterSupervisor (s.setPc pc)).reg .r6 = s.savedSsp := by
  rw [enterSupervisor_r6, entrySp, State.setPc_userMode, if_pos hu, State.setPc_savedSsp]

/-- An entry from User mode writes the two words below Saved_SSP and no other. -/
theorem Enters.word {s t : State} (h : Enters s t) (hu : s.userMode = true) {a : Word} (h1 : a ≠ s.savedSsp - 1)
    (h2 : a ≠ s.savedSsp - 2) : t.word a = s.word a := by
  obtain ⟨pc, entry, -, e⟩ := h
  obtain ⟨-, hwords⟩ := pushAndVector_frame e
  rw [enterSupervisor_r6_user hu] at hwords
  exact (hwords a h1 h2).trans (congrArg (Memory.read · a.toNat) (enterSupervisor_mem (s.setPc pc)))

/-- An entry from User mode leaves the devices when the two words below Saved_SSP are plain memory. -/
theorem Enters.sameDevices {s t : State} (h : Enters s t) (hu : s.userMode = true)
    (h1 : isDevice (s.savedSsp - 1) = false) (h2 : isDevice (s.savedSsp - 2) = false) : SameDevices s t := by
  obtain ⟨pc, entry, hentry, e⟩ := h
  rw [← enterSupervisor_r6_user hu pc] at h1 h2
  obtain ⟨m1, m2, m3, m4, m5, m6, m7⟩ := pushAndVector_sameDevices h1 h2 hentry e
  obtain ⟨⟨n1, n2, n3, n4, n5, n6, n7⟩, -⟩ := enterSupervisor_rest (s.setPc pc)
  exact ⟨m1.trans n1, m2.trans n2, m3.trans n3, m4.trans n4, m5.trans n5, m6.trans n6, m7.trans n7⟩

/-- An entry ends in Supervisor mode when no store can reach the PSR. -/
theorem Enters.supervisor {s t : State} (h : Enters s t) (hpolicy : s.params.psrStore = .refuse) :
    t.userMode = false := by
  obtain ⟨pc, entry, -, e⟩ := h
  obtain ⟨-, -, -, hparams, -⟩ := enterSupervisor_rest (s.setPc pc)
  obtain ⟨hpsr, -⟩ := pushAndVector_frame e
  rw [State.userMode, hpsr (hparams ▸ hpolicy), enterSupervisor_psr, Psr.supervisor_bit]
  rfl

/-- Settles O57. -/
theorem userModeWritesNoPrivilegedState : Obligations.UserModeWritesNoPrivilegedState := by
  intro i s t hu hos e
  rcases exec_userMode_cases hu hos e with henter | ⟨f, hf⟩
  · exact ⟨fun a _ h1 h2 => henter.word hu h1 h2, henter.sameDevices hu⟩
  · have happly : t = f.apply s := Host.Outcome.next.inj (e.symm.trans (hf s (.refl s)))
    obtain ⟨hwords, hdevices⟩ := f.apply_frame s
    rw [happly]
    exact ⟨fun a ha _ _ => hwords a ha, fun _ _ => hdevices⟩

/-- Settles O58: an entry would leave User mode, so the instruction has an effect, which the view decides and which
keeps the two views equal. -/
theorem userModeCannotSeePrivilegedState : Obligations.UserModeCannotSeePrivilegedState := by
  intro i s s' t hu hos hpolicy hwf hwf' hview e ht
  rcases exec_userMode_cases hu hos e with henter | ⟨f, hf⟩
  · exact absurd ht (Bool.eq_false_iff.mp (henter.supervisor hpolicy))
  · have happly : t = f.apply s := Host.Outcome.next.inj (e.symm.trans (hf s (.refl s)))
    rw [happly]
    exact ⟨f.apply s', hf s' hview, hview.apply hwf hwf' f⟩

end Sys2Proof.Machine
end

section
/-! PROOFS. Fields and instruction words as numbers: a field is a quotient and a remainder of its word, the word of an
instruction is the sum of its fields, each at the weight of its lowest bit (R82, R83, R87 of 30_encoding.md). -/

namespace Sys2Proof

/-- Two bit strings one after the other, as a number. -/
theorem toNat_append_eq {m n : Nat} (x : BitVec m) (y : BitVec n) : (x ++ y).toNat = x.toNat * 2 ^ n + y.toNat := by
  rw [BitVec.toNat_append, ← Nat.shiftLeft_add_eq_or_of_lt y.isLt, Nat.shiftLeft_eq]

/-- A field of a word as a number. -/
theorem toNat_extract (w : Word) (start len : Nat) :
    (w.extractLsb' start len).toNat = w.toNat / 2 ^ start % 2 ^ len := by
  rw [BitVec.extractLsb'_toNat, Nat.shiftRight_eq_div_pow]

theorem extract_eq_iff (w : Word) {start len : Nat} (v : BitVec len) :
    w.extractLsb' start len = v ↔ w.toNat / 2 ^ start % 2 ^ len = v.toNat := by
  rw [← BitVec.toNat_inj, toNat_extract]

theorem bit_eq_decide (w : Word) (b : Nat) : w.getLsbD b = decide (w.toNat / 2 ^ b % 2 = 1) :=
  Nat.testBit_eq_decide_div_mod_eq

/-- The opcode is the top of the word: nothing is cut off above it (R81). -/
theorem toNat_opcode (w : Word) : (opcode w).toNat = w.toNat / 4096 := by
  have hw := w.isLt
  rw [opcode, toNat_extract]
  omega

theorem Reg.eq_iff_toNat {a b : Reg} : a = b ↔ a.toBits.toNat = b.toBits.toNat :=
  ⟨fun h => h ▸ rfl, fun h => Reg.toBits_injective (BitVec.eq_of_toNat_eq h)⟩

theorem Reg.toNat_toBits_r7 : Reg.r7.toBits.toNat = 7 := rfl

theorem toNat_fieldDR (w : Word) : (fieldDR w).toBits.toNat = w.toNat / 2 ^ 9 % 2 ^ 3 := by
  rw [fieldDR, Reg.toBits_ofBits, toNat_extract]

theorem toNat_fieldSR1 (w : Word) : (fieldSR1 w).toBits.toNat = w.toNat / 2 ^ 6 % 2 ^ 3 := by
  rw [fieldSR1, Reg.toBits_ofBits, toNat_extract]

theorem toNat_fieldSR2 (w : Word) : (fieldSR2 w).toBits.toNat = w.toNat / 2 ^ 0 % 2 ^ 3 := by
  rw [fieldSR2, Reg.toBits_ofBits, toNat_extract]

/-- The word of an instruction as a number: the fixed bits of its row (R87) and its fields at their weights (R83).
`encode_toNat` ties it to the encoder. -/
def Instr.code : Instr → Nat
  | .addReg dr sr1 sr2 => 0x1000 + 512 * dr.toBits.toNat + 64 * sr1.toBits.toNat + sr2.toBits.toNat
  | .addImm dr sr1 imm5 => 0x1020 + 512 * dr.toBits.toNat + 64 * sr1.toBits.toNat + imm5.toNat
  | .andReg dr sr1 sr2 => 0x5000 + 512 * dr.toBits.toNat + 64 * sr1.toBits.toNat + sr2.toBits.toNat
  | .andImm dr sr1 imm5 => 0x5020 + 512 * dr.toBits.toNat + 64 * sr1.toBits.toNat + imm5.toNat
  | .br n z p off => (if n then 2048 else 0) + (if z then 1024 else 0) + (if p then 512 else 0) + off.toNat
  | .ret => 0xC1C0
  | .jmp base => 0xC000 + 64 * base.toBits.toNat
  | .jsr off => 0x4800 + off.toNat
  | .jsrr base => 0x4000 + 64 * base.toBits.toNat
  | .ld dr off => 0x2000 + 512 * dr.toBits.toNat + off.toNat
  | .ldi dr off => 0xA000 + 512 * dr.toBits.toNat + off.toNat
  | .ldr dr base off => 0x6000 + 512 * dr.toBits.toNat + 64 * base.toBits.toNat + off.toNat
  | .lea dr off => 0xE000 + 512 * dr.toBits.toNat + off.toNat
  | .notReg dr sr => 0x903F + 512 * dr.toBits.toNat + 64 * sr.toBits.toNat
  | .rti => 0x8000
  | .st sr off => 0x3000 + 512 * sr.toBits.toNat + off.toNat
  | .sti sr off => 0xB000 + 512 * sr.toBits.toNat + off.toNat
  | .str sr base off => 0x7000 + 512 * sr.toBits.toNat + 64 * base.toBits.toNat + off.toNat
  | .trap vect => 0xF000 + vect.toNat
  | .reserved bits => 0xD000 + bits.toNat

theorem encode_toNat (i : Instr) : (encode i).toNat = i.code := by
  cases i with
  | br n z p off =>
    rw [encode, Instr.code]
    repeat rw [toNat_append_eq]
    cases n <;> cases z <;> cases p <;> simp
  | _ =>
    rw [encode, Instr.code]
    repeat rw [toNat_append_eq]
    simp only [BitVec.toNat_ofNat]
    omega

theorem opcode_encode : ∀ i : Instr, opcode (encode i) = i.opcodeOf
  | .addReg _ _ _ => Laws.OpcodeField.addReg _ _ _
  | .addImm _ _ _ => Laws.OpcodeField.addImm _ _ _
  | .andReg _ _ _ => Laws.OpcodeField.andReg _ _ _
  | .andImm _ _ _ => Laws.OpcodeField.andImm _ _ _
  | .br _ _ _ _ => Laws.OpcodeField.br _ _ _ _
  | .ret => Laws.OpcodeField.ret
  | .jmp _ => Laws.OpcodeField.jmp _
  | .jsr _ => Laws.OpcodeField.jsr _
  | .jsrr _ => Laws.OpcodeField.jsrr _
  | .ld _ _ => Laws.OpcodeField.ld _ _
  | .ldi _ _ => Laws.OpcodeField.ldi _ _
  | .ldr _ _ _ => Laws.OpcodeField.ldr _ _ _
  | .lea _ _ => Laws.OpcodeField.lea _ _
  | .notReg _ _ => Laws.OpcodeField.notReg _ _
  | .rti => Laws.OpcodeField.rti
  | .st _ _ => Laws.OpcodeField.st _ _
  | .sti _ _ => Laws.OpcodeField.sti _ _
  | .str _ _ _ => Laws.OpcodeField.str _ _ _
  | .trap _ => Laws.OpcodeField.trap _
  | .reserved _ => Laws.OpcodeField.reserved _

end Sys2Proof
end

section
/-! PROOFS. The decoder and the encoder undo each other, and what loose decoding drops (R85 to R90, R99 of
30_encoding.md; D6, log 15). -/

namespace Sys2Proof

theorem decode_eq_error_iff {w : Word} {r : Reject} : decode w = .error r ↔ wrongFixedBits w = some r := by
  unfold decode
  split <;> simp_all

theorem decode_eq_ok_iff {w : Word} {i : Instr} :
    decode w = .ok i ↔ wrongFixedBits w = none ∧ decodeLoose w = i := by
  unfold decode
  split <;> simp_all

/-- No word is named `jmp r7` (R91). -/
theorem decodeLoose_wellFormed (w : Word) : (decodeLoose w).wellFormed = true := by
  unfold decodeLoose
  split
  case h_13 =>
    split
    next => rfl
    next h => simpa [Instr.wellFormed] using h
  all_goals try split
  all_goals rfl

/-- The opcode of the word selects the row, the mode bit its form, and each field is cut out of the sum again. -/
theorem decodeLoose_encode {i : Instr} (h : i.wellFormed = true) : decodeLoose (encode i) = i := by
  unfold decodeLoose
  simp only [opcode_encode]
  cases i
  all_goals
    simp only [Instr.opcodeOf, BitVec.ofNat_eq_ofNat, BitVec.toNat_ofNat, Nat.reducePow, Nat.reduceMod, bit_eq_decide,
      decide_eq_true_eq, encode_toNat, fieldImm5, fieldOffset6, fieldPCoffset9, fieldPCoffset11, fieldTrapvect8]
  case br n z p off =>
    simp only [Instr.br.injEq, extract_eq_iff, encode_toNat, Instr.code]
    cases n <;> cases z <;> cases p <;> simp <;> omega
  case jmp base =>
    have hbase : base ≠ .r7 := by simpa [Instr.wellFormed] using h
    have hfield : fieldSR1 (encode (.jmp base)) = base := by
      rw [Reg.eq_iff_toNat, toNat_fieldSR1, encode_toNat, Instr.code]
      omega
    rw [hfield, if_neg hbase]
  case ret => rfl
  all_goals try split
  all_goals
    simp only [Instr.addReg.injEq, Instr.addImm.injEq, Instr.andReg.injEq, Instr.andImm.injEq, Instr.jsr.injEq,
      Instr.jsrr.injEq, Instr.ld.injEq, Instr.ldi.injEq, Instr.ldr.injEq, Instr.lea.injEq, Instr.notReg.injEq,
      Instr.st.injEq, Instr.sti.injEq, Instr.str.injEq, Instr.trap.injEq, Instr.reserved.injEq, reduceCtorEq,
      Reg.eq_iff_toNat, toNat_fieldDR, toNat_fieldSR1, toNat_fieldSR2, extract_eq_iff, encode_toNat, Instr.code] at *
  all_goals omega

/-- What loose decoding keeps of a word: the fields, as lowest bit and width, that the row of an instruction reads or
has as its opcode and mode bit (R83, R87). `Instr.exists_keptField` ties them to `fixedBits`. -/
def Instr.keptFields : Instr → List (Nat × Nat)
  | .addReg _ _ _ | .andReg _ _ _ => [(5, 11), (0, 3)]
  | .jmp _ | .ret => [(12, 4), (6, 3)]
  | .jsrr _ => [(11, 5), (6, 3)]
  | .notReg _ _ => [(6, 10)]
  | .rti => [(12, 4)]
  | .trap _ => [(12, 4), (0, 8)]
  | .addImm _ _ _ | .andImm _ _ _ | .br _ _ _ _ | .jsr _ | .ld _ _ | .ldi _ _ | .ldr _ _ _ | .lea _ _
  | .st _ _ | .sti _ _ | .str _ _ _ | .reserved _ => [(0, 16)]

/-- Every bit that is no fixed bit of the row lies in a kept field. -/
theorem Instr.exists_keptField (i : Instr) :
    ∀ b < 16, (Machine.fixedBits i).getLsbD b = false → ∃ f ∈ i.keptFields, f.1 ≤ b ∧ b < f.1 + f.2 := by
  cases i <;> simp only [Machine.fixedBits, keptFields] <;> decide

/-- Row by row: the fixed bits are right exactly when encoding what the word decodes to gives the word back (R89), and
right or wrong, the word given back has the same kept fields. -/
theorem encode_decodeLoose_row (w : Word) :
    (wrongFixedBits w = none ↔ encode (decodeLoose w) = w) ∧
    ∀ f ∈ (decodeLoose w).keptFields, (encode (decodeLoose w)).extractLsb' f.1 f.2 = w.extractLsb' f.1 f.2 := by
  have hop := toNat_opcode w
  have hlt : (opcode w).toNat < 16 := (opcode w).isLt
  simp only [← BitVec.toNat_inj, toNat_extract, encode_toNat]
  unfold decodeLoose wrongFixedBits
  interval_cases (opcode w).toNat
  -- One goal for each opcode, then one for each form and for right and wrong fixed bits: arithmetic on the word.
  all_goals
    simp only [bit_eq_decide, bne_iff_ne, ne_eq, Bool.and_eq_true, Bool.or_eq_true, Bool.not_eq_true',
      decide_eq_true_eq, decide_eq_false_iff_not, extract_eq_iff, Reg.eq_iff_toNat, toNat_fieldSR1]
    try split_ifs
  all_goals
    simp only [Instr.code, Instr.keptFields, List.forall_mem_cons, List.not_mem_nil, false_imp_iff, implies_true,
      and_true, true_iff, false_iff, decide_eq_true_eq, toNat_fieldDR, toNat_fieldSR1, toNat_fieldSR2,
      fieldImm5, fieldOffset6, fieldPCoffset9, fieldPCoffset11, fieldTrapvect8, toNat_extract, BitVec.ofNat_eq_ofNat,
      BitVec.toNat_ofNat, Reg.toNat_toBits_r7] at *
  · -- BR, the first opcode: its three condition bits are weights of their own.
    split_ifs <;> omega
  all_goals omega

theorem wrongFixedBits_eq_none_iff (w : Word) : wrongFixedBits w = none ↔ encode (decodeLoose w) = w :=
  (encode_decodeLoose_row w).1

/-- Words with the same field have the same bits there. -/
theorem bit_eq_of_extract_eq {x w : Word} {start len b : Nat} (h : x.extractLsb' start len = w.extractLsb' start len)
    (hlo : start ≤ b) (hhi : b < start + len) : x.getLsbD b = w.getLsbD b := by
  have hb := congrArg (·.getLsbD (b - start)) h
  simpa [BitVec.getLsbD_extractLsb', show b - start < len by omega, Nat.add_sub_cancel' hlo] using hb

/-- Words with the same bits outside a mask differ in the mask alone. -/
theorem xor_and_not_eq_zero {x w m : Word} (h : ∀ b < 16, m.getLsbD b = false → x.getLsbD b = w.getLsbD b) :
    (x ^^^ w) &&& ~~~m = 0 := by
  apply BitVec.eq_of_getLsbD_eq
  intro b hb
  cases hm : m.getLsbD b
  · simp [-BitVec.getLsbD_eq_getElem, h b hb hm]
  · simp [-BitVec.getLsbD_eq_getElem, hm]

/-- Settles O1: decoding the word gives the instruction back, so encoding it again gives the word back, and the word has
its row's fixed bits. -/
theorem decodeOfEncodeIsTheInstruction : Obligations.DecodeOfEncodeIsTheInstruction := by
  intro i hwf
  have hloose := decodeLoose_encode hwf
  exact decode_eq_ok_iff.mpr ⟨(wrongFixedBits_eq_none_iff _).mpr (congrArg encode hloose), hloose⟩

/-- Settles O2. -/
theorem encodeOfDecodedWordIsTheWord : Obligations.EncodeOfDecodedWordIsTheWord := by
  intro w i hdec
  obtain ⟨hnone, rfl⟩ := decode_eq_ok_iff.mp hdec
  exact ⟨(wrongFixedBits_eq_none_iff w).mp hnone, decodeLoose_wellFormed w⟩

/-- Settles O3. -/
theorem rejectedExactlyWhenNotCanonical : Obligations.RejectedExactlyWhenNotCanonical := by
  intro w
  simp only [decode_eq_error_iff, ne_eq, ← wrongFixedBits_eq_none_iff]
  exact Option.ne_none_iff_exists'.symm

/-- Settles O4: a bit that is no fixed bit lies in a field the encoder puts back. -/
theorem looseDecodingKeepsEveryNamedBit : Obligations.LooseDecodingKeepsEveryNamedBit := by
  intro w
  refine xor_and_not_eq_zero fun b hb hm => ?_
  obtain ⟨f, hf, hlo, hhi⟩ := Instr.exists_keptField _ b hb hm
  exact bit_eq_of_extract_eq ((encode_decodeLoose_row w).2 f hf) hlo hhi

/-- Settles O5: the word of `reserved b` is 1101 and b, so this is O2 in one direction and O1 in the other. -/
theorem reservedOpcodeIsExactly1101 : Obligations.ReservedOpcodeIsExactly1101 := by
  intro w b
  constructor
  · intro hdec
    exact (encodeOfDecodedWordIsTheWord w _ hdec).1.symm
  · rintro rfl
    exact decodeOfEncodeIsTheInstruction (.reserved b) rfl

end Sys2Proof
end

section
/-! PROOFS. A fetched word that is no canonical instruction (R89, D6, log 15). -/

namespace Sys2Proof.Machine

/-- Settles O8: the step is the execution of the fetched word, whose decoding the parameter selects. -/
theorem stepOnNonCanonicalWord : Obligations.StepOnNonCanonicalWord := by
  intro s r hex hdec
  have hstep := step_of_executes hex
  constructor
  · intro hpolicy
    have hunder : decodeUnder ((takeTurn s).setPc (s.pc + 1)).params.noncanonical (s.word s.pc) = .error r :=
      (congrArg (decodeUnder · _) hpolicy).trans hdec
    rw [hstep, executeWord, hunder]
  · intro hpolicy
    have hunder : decodeUnder ((takeTurn s).setPc (s.pc + 1)).params.noncanonical (s.word s.pc) =
        .ok (decodeLoose (s.word s.pc)) := congrArg (decodeUnder · _) hpolicy
    rw [hstep, executeWord, hunder]

end Sys2Proof.Machine
end

section
/-! PROOFS. The field of a label (R84, R94, R98; D24, log 36). -/

namespace Sys2Proof.Machine

/-- A signed field exists exactly for the integers it holds (R84, R98). -/
theorem signedField_ne_none_iff (w : Nat) (v : Int) :
    signedField w v ≠ none ↔ -(2 ^ (w - 1) : Int) ≤ v ∧ v < (2 ^ (w - 1) : Int) := by
  simp [signedField]

/-- A signed field stands for the integer it was made from: nothing is truncated (R98). -/
theorem signedField_toInt {w : Nat} (hw : 0 < w) {v : Int} {off : BitVec w} (h : signedField w v = some off) :
    off.toInt = v := by
  obtain ⟨⟨hlo, hhi⟩, hoff⟩ := Option.ite_none_right_eq_some.mp h
  cases hoff
  exact BitVec.toInt_ofInt_eq_self hw hlo hhi

/-- The hardware's address for a label's field is the label (R94). -/
theorem labelField_reaches {w : Nat} (hpos : 0 < w) (hle : w ≤ 16) {at_ label : Word} {off : BitVec w}
    (h : labelField w at_ label = some off) : at_ + 1 + sext16 off = label := by
  have hoff : sext16 off = label - (at_ + 1) := by
    rw [sext16_eq_ofInt hle, signedField_toInt hpos h, BitVec.ofInt_toInt]
  rw [hoff, add_sub_cancel]

/-- Settles O60: both widths are instances of the lemmas for every width. -/
theorem labelFieldsReachTheirLabels : Obligations.LabelFieldsReachTheirLabels := by
  intro at_ label
  refine ⟨fun _ => labelField_reaches (by decide) (by decide), fun _ => labelField_reaches (by decide) (by decide),
    ?_, ?_⟩
  · exact (signedField_ne_none_iff 9 _).trans (and_congr_right fun _ => Int.lt_add_one_iff (b := 255))
  · exact (signedField_ne_none_iff 11 _).trans (and_congr_right fun _ => Int.lt_add_one_iff (b := 1023))

end Sys2Proof.Machine
end

section
/-! PROOFS. The operate instructions ADD, AND, NOT (R100 to R103 of 40_operate.md; D2, log 37): their words decode, and
their one update ends with the shared `writeResult`. -/

namespace Sys2Proof

/-- The decoder names an instruction by the number its word stands for, however the word's fields are written. -/
theorem decode_of_toNat_eq_code {w : Word} {i : Instr} (hwf : i.wellFormed = true) (h : w.toNat = i.code) :
    decode w = .ok i := by
  have hword : w = encode i := BitVec.eq_of_toNat_eq (h.trans (encode_toNat i).symm)
  rw [hword]
  exact decodeOfEncodeIsTheInstruction i hwf

/-- The word of an operate instruction in register form, with the mode bit and the two fixed bits written apart (R83,
R87). -/
theorem toNat_operateRegister (op : BitVec 4) (dr sr1 sr2 : Reg) :
    (op ++ dr.toBits ++ sr1.toBits ++ 0b0#1 ++ 0b00#2 ++ sr2.toBits).toNat =
      4096 * op.toNat + 512 * dr.toBits.toNat + 64 * sr1.toBits.toNat + sr2.toBits.toNat := by
  simp only [toNat_append_eq, BitVec.toNat_ofNat]
  omega

/-- The word of NOT, with the mode bit and the five fixed bits written apart (R83, R87). -/
theorem toNat_operateNot (dr sr : Reg) :
    (0b1001#4 ++ dr.toBits ++ sr.toBits ++ 0b1#1 ++ 0b11111#5).toNat =
      0x903F + 512 * dr.toBits.toNat + 64 * sr.toBits.toNat := by
  simp only [toNat_append_eq, BitVec.toNat_ofNat]
  omega

end Sys2Proof

namespace Sys2Proof.Machine

section Equations
variable (dr sr1 sr2 sr : Reg) (imm5 : BitVec 5) (s : State)

/-- ADD, register form (R101). -/
theorem exec_addReg : exec (.addReg dr sr1 sr2) s = .next (writeResult s dr (s.reg sr1 + s.reg sr2)) := rfl

/-- ADD, immediate form (R101). -/
theorem exec_addImm : exec (.addImm dr sr1 imm5) s = .next (writeResult s dr (s.reg sr1 + sext16 imm5)) := rfl

/-- AND, register form (R102). -/
theorem exec_andReg : exec (.andReg dr sr1 sr2) s = .next (writeResult s dr (s.reg sr1 &&& s.reg sr2)) := rfl

/-- AND, immediate form (R102). -/
theorem exec_andImm : exec (.andImm dr sr1 imm5) s = .next (writeResult s dr (s.reg sr1 &&& sext16 imm5)) := rfl

/-- NOT (R103). -/
theorem exec_notReg : exec (.notReg dr sr) s = .next (writeResult s dr (~~~(s.reg sr))) := rfl

end Equations

/-- An instruction that ends with `writeResult` completes with the value in DR, its codes and nothing else changed. -/
theorem exists_registerResult {i : Instr} {s : State} {dr : Reg} {v v' : Word}
    (he : exec i s = .next (writeResult s dr v)) (hv : v = v') :
    ∃ t, exec i s = .next t ∧ RegisterResult s t dr v' :=
  ⟨_, he, hv ▸ writeResult_result s dr v⟩

/-- The same with the value given bit by bit. -/
theorem exists_registerResult_bits {i : Instr} {s : State} {dr : Reg} {v : Word} {bit : Nat → Bool}
    (he : exec i s = .next (writeResult s dr v)) (hbit : ∀ b, v.getLsbD b = bit b) :
    ∃ t, exec i s = .next t ∧ RegisterResult s t dr (t.reg dr) ∧ ∀ b, (t.reg dr).getLsbD b = bit b := by
  have hresult := writeResult_result s dr v
  have hreg : (writeResult s dr v).reg dr = v := hresult.1
  refine ⟨_, he, ?_⟩
  rw [hreg]
  exact ⟨hresult, hbit⟩

/-- The sum of two words is the low sixteen bits of the mathematical sum (D2, log 37). -/
theorem add_eq_ofInt_toInt (x y : Word) : x + y = BitVec.ofInt 16 (x.toInt + y.toInt) := by
  rw [BitVec.ofInt_add, BitVec.ofInt_toInt, BitVec.ofInt_toInt]

/-- The sum of a word and a sign-extended field is the low sixteen bits of the mathematical sum (R6; D2, log 37). -/
theorem add_sext16_eq_ofInt {w : Nat} (h : w ≤ 16) (x : Word) (v : BitVec w) :
    x + sext16 v = BitVec.ofInt 16 (x.toInt + v.toInt) := by
  rw [BitVec.ofInt_add, BitVec.ofInt_toInt, sext16_eq_ofInt h]

/-- The conjunction of a word and a sign-extended field, bit by bit: the field's sign stands above the field (R6). -/
theorem and_sext16_bit {w : Nat} (x : Word) (v : BitVec w) (b : Nat) :
    (x &&& sext16 v).getLsbD b = (x.getLsbD b && (if b < w then v.getLsbD b else v.msb)) := by
  rw [BitVec.getLsbD_and, sext16, BitVec.getLsbD_signExtend]
  by_cases hb : b < 16
  · rw [decide_eq_true hb, Bool.true_and]
  · rw [BitVec.getLsbD_of_ge x b (by omega), Bool.false_and, Bool.false_and]

/-- Settles O18. -/
theorem addWritesTheSum : Obligations.AddWritesTheSum := fun dr sr1 sr2 imm5 s =>
  ⟨decode_of_toNat_eq_code rfl (toNat_operateRegister 0b0001#4 dr sr1 sr2),
    decodeOfEncodeIsTheInstruction (.addImm dr sr1 imm5) rfl,
    exists_registerResult (exec_addReg dr sr1 sr2 s) (add_eq_ofInt_toInt _ _),
    exists_registerResult (exec_addImm dr sr1 imm5 s) (add_sext16_eq_ofInt (by decide) _ _)⟩

/-- Settles O19. -/
theorem andWritesTheConjunction : Obligations.AndWritesTheConjunction := fun dr sr1 sr2 imm5 s =>
  ⟨decode_of_toNat_eq_code rfl (toNat_operateRegister 0b0101#4 dr sr1 sr2),
    decodeOfEncodeIsTheInstruction (.andImm dr sr1 imm5) rfl,
    exists_registerResult_bits (exec_andReg dr sr1 sr2 s) fun _ => BitVec.getLsbD_and,
    exists_registerResult_bits (exec_andImm dr sr1 imm5 s) (and_sext16_bit _ _)⟩

/-- Settles O20: xFFFF is the word of all ones, and taking a word from it complements every bit. -/
theorem notWritesTheComplement : Obligations.NotWritesTheComplement := fun dr sr s =>
  ⟨decode_of_toNat_eq_code rfl (toNat_operateNot dr sr),
    exists_registerResult (exec_notReg dr sr s) (BitVec.allOnes_sub_eq_not _).symm⟩

end Sys2Proof.Machine
end

section
/-! PROOFS. The data movement instructions LD, LDI, LDR, LEA, ST, STI, STR (R110 to R117 of 41_data_movement.md): their
addresses, what a checked access does where the test passes, and the two accesses of LDI and STI (D18, log 35). -/

namespace Sys2Proof.Machine

/-- The sum of an address and a signed field wraps modulo 2^16, the address read as unsigned (R75; D2, log 37). -/
theorem add_sext16_eq_ofInt_toNat {w : Nat} (h : w ≤ 16) (x : Word) (v : BitVec w) :
    x + sext16 v = BitVec.ofInt 16 (x.toNat + v.toInt) := by
  rw [BitVec.ofInt_add, BitVec.ofInt_natCast, BitVec.ofNat_toNat, BitVec.setWidth_eq, sext16_eq_ofInt h]

/-- Settles O15: the three address forms are one sum, at the widths 9, 11 and 6. -/
theorem effectiveAddressesWrap : Obligations.EffectiveAddressesWrap :=
  ⟨fun s => add_sext16_eq_ofInt_toNat (by decide) s.pc, fun s => add_sext16_eq_ofInt_toNat (by decide) s.pc,
    fun s base => add_sext16_eq_ofInt_toNat (by decide) (s.reg base)⟩

/-- Where the access test passes (R56, R57). -/
theorem accessViolation_eq_false_iff (s : State) (a : Word) :
    accessViolation s a = false ↔ s.userMode = false ∨ privileged a = false :=
  Bool.and_eq_false_iff

/-- Where the test passes and the read answers, a checked read goes on with the answer (R56). -/
theorem checkedRead_next {s s1 : State} {a v : Word} (k : Word → State → Result State)
    (hv : accessViolation s a = false) (hread : memRead s a = .next (v, s1)) : checkedRead s a k = k v s1 := by
  simp [checkedRead, hv, hread]

/-- Where the test passes and the read is refused, the instruction is. -/
theorem checkedRead_refused {s : State} {a : Word} {r : Refusal} (k : Word → State → Result State)
    (hv : accessViolation s a = false) (hread : memRead s a = .refused r) : checkedRead s a k = .refused r := by
  simp [checkedRead, hv, hread]

/-- A privileged data address in User mode: the instruction does nothing but take the exception (R56, R57, R60). -/
theorem exec_of_privileged_mem {i : Instr} {s : State} {a : Word} (ha : a ∈ dataAddresses i s)
    (hu : s.userMode = true) (hp : privileged a = true) : exec i s = raise .acv s :=
  exec_of_touchesPrivileged hu (List.any_eq_true.mpr ⟨a, ha, hp⟩)

/-- How every load ends where the test passes: DR and the codes take the word, and nothing changes but what the read
itself changed (R111, R112, R113). -/
theorem exists_loadResult {o : Result State} {s s1 : State} {a v : Word} {dr : Reg}
    (ho : o = checkedRead s a fun v s1 => .next (writeResult s1 dr v)) (hv : accessViolation s a = false)
    (hread : memRead s a = .next (v, s1)) : ∃ t, o = .next t ∧ RegisterResult s1 t dr v :=
  ⟨_, ho.trans (checkedRead_next _ hv hread), writeResult_result s1 dr v⟩

/-- A load with one address where the test passes: from plain memory, from a device register, and refused (LD and
LDR). -/
theorem load_of_allowed {o : Result State} {s : State} {a : Word} {dr : Reg}
    (ho : o = checkedRead s a fun v s1 => .next (writeResult s1 dr v))
    (h : s.userMode = false ∨ privileged a = false) :
    (isDevice a = false → ∃ t, o = .next t ∧ RegisterResult s t dr (s.word a)) ∧
    (∀ v s1, memRead s a = .next (v, s1) → ∃ t, o = .next t ∧ RegisterResult s1 t dr v) ∧
    (∀ r, memRead s a = .refused r → o = .refused r) := by
  have hv : accessViolation s a = false := (accessViolation_eq_false_iff s a).mpr h
  refine ⟨fun hd => ?plain, fun v s1 hread => ?answers, fun r hrefused => ?refused⟩
  case plain => exact exists_loadResult ho hv (memRead_plain hd)
  case answers => exact exists_loadResult ho hv hread
  case refused => exact ho.trans (checkedRead_refused _ hv hrefused)

/-- Settles O21. -/
theorem ldLoadsTheAddressedWord : Obligations.LdLoadsTheAddressedWord := fun dr off s =>
  ⟨decodeOfEncodeIsTheInstruction (.ld dr off) rfl,
    exec_of_privileged_mem (i := .ld dr off) (List.mem_singleton_self _),
    load_of_allowed (exec_ld dr off s)⟩

/-- Settles O22: the address is computed from the state the load starts in, so DR = BaseR is no exception. -/
theorem ldrLoadsTheAddressedWord : Obligations.LdrLoadsTheAddressedWord := fun dr base off s =>
  ⟨decodeOfEncodeIsTheInstruction (.ldr dr base off) rfl,
    exec_of_privileged_mem (i := .ldr dr base off) (List.mem_singleton_self _),
    load_of_allowed (exec_ldr dr base off s)⟩

/-- Where both tests of an indirect access pass on the first state, the pointer read passes the second test: in
Supervisor mode the read keeps the mode, in User mode the pointer is the word of plain memory (D18, log 35). -/
theorem accessViolation_pointer {s s1 : State} {a p : Word}
    (h : s.userMode = false ∨ privileged a = false ∧ privileged (s.word a) = false)
    (hread : memRead s a = .next (p, s1)) : accessViolation s1 p = false := by
  rw [accessViolation_eq_false_iff]
  rcases h with hs | ⟨ha, hp⟩
  · obtain ⟨-, -, hpsr, -⟩ := memRead_frame hread
    exact .inl ((userMode_of_psr_eq hpsr).trans hs)
  · rw [memRead_plain (isDevice_of_unprivileged ha)] at hread
    cases hread
    exact .inr hp

/-- The first test of an indirect access passes where both do. -/
theorem accessViolation_pointerAddress {s : State} {a : Word}
    (h : s.userMode = false ∨ privileged a = false ∧ privileged (s.word a) = false) : accessViolation s a = false :=
  (accessViolation_eq_false_iff s a).mpr (h.imp_right And.left)

/-- Settles O23: once the pointer is read, what is left is a load from the pointer. -/
theorem ldiLoadsThroughThePointer : Obligations.LdiLoadsThroughThePointer := by
  intro dr off s
  refine ⟨decodeOfEncodeIsTheInstruction (.ldi dr off) rfl,
    exec_of_privileged_mem (i := .ldi dr off) List.mem_cons_self,
    fun hu _ => exec_of_privileged_mem (i := .ldi dr off) (List.mem_cons_of_mem _ List.mem_cons_self) hu,
    fun h => ?_⟩
  have hv : accessViolation s (pcRelative s off) = false := accessViolation_pointerAddress h
  have rest {p : Word} {s1 : State} (hread : memRead s (pcRelative s off) = .next (p, s1)) :
      exec (.ldi dr off) s = checkedRead s1 p fun v s2 => .next (writeResult s2 dr v) :=
    (exec_ldi dr off s).trans (checkedRead_next _ hv hread)
  refine ⟨fun hd hdp => ?plain, fun p s1 v s2 hread hread2 => ?answers, fun r hrefused => ?pointerRefused,
    fun p s1 r hread hrefused => ?dataRefused⟩
  case plain =>
    have hread := memRead_plain (s := s) hd
    exact exists_loadResult (rest hread) (accessViolation_pointer h hread) (memRead_plain hdp)
  case answers => exact exists_loadResult (rest hread) (accessViolation_pointer h hread) hread2
  case pointerRefused => exact (exec_ldi dr off s).trans (checkedRead_refused _ hv hrefused)
  case dataRefused => exact (rest hread).trans (checkedRead_refused _ (accessViolation_pointer h hread) hrefused)

/-- A store with one address where the test passes: to plain memory and to a device register (ST and STR). -/
theorem store_of_allowed {o : Result State} {s : State} {a v : Word} (hwf : s.mem.wf = true)
    (ho : o = checkedWrite s a v) (h : s.userMode = false ∨ privileged a = false) :
    (isDevice a = false → ∃ t, o = .next t ∧ StoreResult s t a v) ∧ (isDevice a = true → o = memWrite s a v) := by
  have hwrite : o = memWrite s a v :=
    ho.trans (checkedWrite_allowed v ((accessViolation_eq_false_iff s a).mpr h))
  exact ⟨fun hd => ⟨_, hwrite.trans (memWrite_plain v hd), storeResult_setMem hwf a v⟩, fun _ => hwrite⟩

/-- Settles O25. -/
theorem stStoresAtTheAddress : Obligations.StStoresAtTheAddress := fun sr off s hwf =>
  ⟨decodeOfEncodeIsTheInstruction (.st sr off) rfl,
    exec_of_privileged_mem (i := .st sr off) (List.mem_singleton_self _),
    store_of_allowed hwf (exec_st sr off s)⟩

/-- Settles O26. -/
theorem strStoresAtTheAddress : Obligations.StrStoresAtTheAddress := fun sr base off s hwf =>
  ⟨decodeOfEncodeIsTheInstruction (.str sr base off) rfl,
    exec_of_privileged_mem (i := .str sr base off) (List.mem_singleton_self _),
    store_of_allowed hwf (exec_str sr base off s)⟩

/-- Where both tests pass and the pointer is read, STI writes the register's word at the pointer: the read changed no
register (R116). -/
theorem exec_sti_of_allowed {sr : Reg} {off : BitVec 9} {s s1 : State} {p : Word}
    (h : s.userMode = false ∨ privileged (pcRelative s off) = false ∧ privileged (s.word (pcRelative s off)) = false)
    (hread : memRead s (pcRelative s off) = .next (p, s1)) : exec (.sti sr off) s = memWrite s1 p (s.reg sr) := by
  obtain ⟨hregs, -⟩ := memRead_frame hread
  have hreg : s1.reg sr = s.reg sr := congrArg (Regs.get · sr) hregs
  rw [exec_sti, checkedRead_next _ (accessViolation_pointerAddress h) hread,
    checkedWrite_allowed _ (accessViolation_pointer h hread), hreg]

/-- Settles O27. -/
theorem stiStoresThroughThePointer : Obligations.StiStoresThroughThePointer := by
  intro sr off s hwf
  refine ⟨decodeOfEncodeIsTheInstruction (.sti sr off) rfl,
    exec_of_privileged_mem (i := .sti sr off) List.mem_cons_self,
    fun hu _ => exec_of_privileged_mem (i := .sti sr off) (List.mem_cons_of_mem _ List.mem_cons_self) hu,
    fun h => ⟨fun hd hdp => ?plain, fun p s1 hread _ => ?device, fun r hrefused => ?refused⟩⟩
  case plain =>
    have hwrite := (exec_sti_of_allowed h (memRead_plain hd)).trans (memWrite_plain (s.reg sr) hdp)
    exact ⟨_, hwrite, storeResult_setMem hwf _ _⟩
  case device => exact exec_sti_of_allowed h hread
  case refused => exact (exec_sti sr off s).trans (checkedRead_refused _ (accessViolation_pointerAddress h) hrefused)

/-- LEA (R114). -/
theorem exec_lea (dr : Reg) (off : BitVec 9) (s : State) :
    exec (.lea dr off) s = .next (s.setReg dr (pcRelative s off)) := rfl

/-- A register written is its one change, among the registers too (R9, R20). -/
theorem setReg_frame (s : State) (r : Reg) (v : Word) :
    SameRegsBut r s (s.setReg r v) ∧ SameMemory s (s.setReg r v) ∧ SameRest s (s.setReg r v) :=
  ⟨fun q hq => by simp [hq], fun _ => rfl, ⟨rfl, rfl⟩, ⟨rfl, rfl, rfl, rfl, rfl, rfl, rfl⟩, rfl, rfl, rfl, rfl⟩

/-- Settles O24: LEA is one register write, with no test of the address and no `setcc`. -/
theorem leaWritesTheAddress : Obligations.LeaWritesTheAddress := by
  intro dr off s
  obtain ⟨hregs, hmem, hrest⟩ := setReg_frame s dr (pcRelative s off)
  have hdr : (s.setReg dr (pcRelative s off)).reg dr = s.pc + sext16 off := by simp [pcRelative]
  exact ⟨decodeOfEncodeIsTheInstruction (.lea dr off) rfl, _, exec_lea dr off s, hdr, hregs, rfl, rfl, hmem, hrest⟩

end Sys2Proof.Machine
end

section
/-! PROOFS. The control instructions BR, JMP, RET, JSR, JSRR (R120 to R124 of 42_control.md): each is one write of the
PC, JSR and JSRR with the link in R7. -/

namespace Sys2Proof.Machine

section Equations
variable (n z p : Bool) (off9 : BitVec 9) (off11 : BitVec 11) (base : Reg) (s : State)

/-- BR; a branch not taken goes on at the incremented PC (R120). -/
theorem exec_br :
    exec (.br n z p off9) s = .next (s.setPc (if branchTaken s n z p then pcRelative s off9 else s.pc)) :=
  congrArg Host.Outcome.next (apply_ite s.setPc (branchTaken s n z p) (pcRelative s off9) s.pc).symm

/-- JMP (R121). -/
theorem exec_jmp : exec (.jmp base) s = .next (s.setPc (s.reg base)) := rfl

/-- RET (R122). -/
theorem exec_ret : exec .ret s = .next (s.setPc (s.reg .r7)) := rfl

/-- JSR (R123). -/
theorem exec_jsr : exec (.jsr off11) s = .next (linkAndJump s (pcRelative s off11)) := rfl

/-- JSRR; the base register is read from the state the instruction starts in (R124). -/
theorem exec_jsrr : exec (.jsrr base) s = .next (linkAndJump s (s.reg base)) := rfl

end Equations

/-- The test of BR: some code is both selected and 1 (R120). -/
theorem branchTaken_iff (s : State) (n z p : Bool) :
    branchTaken s n z p = true ↔
      (n = true ∧ s.flagN = true) ∨ (z = true ∧ s.flagZ = true) ∨ (p = true ∧ s.flagP = true) := by
  simp only [branchTaken, Bool.or_eq_true, Bool.and_eq_true, or_assoc]

/-- A PC written is its one change. -/
theorem setPc_frame (s : State) (v : Word) :
    (s.setPc v).regs = s.regs ∧ (s.setPc v).psr = s.psr ∧ SameMemory s (s.setPc v) ∧ SameRest s (s.setPc v) :=
  ⟨rfl, rfl, fun _ => rfl, ⟨rfl, rfl⟩, ⟨rfl, rfl, rfl, rfl, rfl, rfl, rfl⟩, rfl, rfl, rfl, rfl⟩

/-- A jump with link: the old PC in R7, the target in the PC, and nothing else changed (R123, R124). -/
theorem linkAndJump_result (s : State) (target : Word) :
    (linkAndJump s target).reg .r7 = s.pc ∧ (linkAndJump s target).pc = target ∧
      SameRegsBut .r7 s (linkAndJump s target) ∧ (linkAndJump s target).psr = s.psr ∧
      SameMemory s (linkAndJump s target) ∧ SameRest s (linkAndJump s target) := by
  obtain ⟨hregs, hmem, hrest⟩ := setReg_frame (s.setPc target) .r7 s.pc
  have hlink : (linkAndJump s target).reg .r7 = s.pc := by simp [linkAndJump]
  exact ⟨hlink, rfl, hregs, rfl, hmem, hrest⟩

/-- Settles O33. -/
theorem brBranchesOnTheTestedCodes : Obligations.BrBranchesOnTheTestedCodes := by
  intro n z p off s
  refine ⟨decodeOfEncodeIsTheInstruction (.br n z p off) rfl, _, exec_br n z p off s, ?taken, ?notTaken,
    setPc_frame s _⟩
  case taken =>
    intro h
    exact if_pos ((branchTaken_iff s n z p).mpr h)
  case notTaken =>
    intro h
    exact if_neg (mt (branchTaken_iff s n z p).mp h)

/-- The word of the JMP format is JMP's, but for BaseR = 111, where it is RET's (R91; log 32). -/
theorem decode_jmpWord (base : Reg) :
    decode (0b1100#4 ++ 0b000#3 ++ base.toBits ++ 0b000000#6) = .ok (if base = .r7 then .ret else .jmp base) := by
  by_cases h : base = .r7
  · subst h
    exact decodeOfEncodeIsTheInstruction .ret rfl
  · rw [if_neg h]
    exact decodeOfEncodeIsTheInstruction (.jmp base) (bne_iff_ne.mpr h)

/-- Settles O34. -/
theorem jmpAndRetLoadThePc : Obligations.JmpAndRetLoadThePc := fun base s =>
  ⟨decode_jmpWord base,
    ⟨_, exec_jmp base s, rfl, setPc_frame s _⟩,
    BitVec.eq_of_toNat_eq (encode_toNat .ret),
    ⟨_, exec_ret s, rfl, setPc_frame s _⟩,
    (exec_ret s).trans (exec_jmp .r7 s).symm⟩

/-- Settles O35. -/
theorem jsrLinksAndJumps : Obligations.JsrLinksAndJumps := fun off s =>
  ⟨decodeOfEncodeIsTheInstruction (.jsr off) rfl, _, exec_jsr off s, linkAndJump_result s _⟩

/-- Settles O36: the target is an argument of `linkAndJump`, so `JSRR R7` is no exception. -/
theorem jsrrJumpsToTheOldRegister : Obligations.JsrrJumpsToTheOldRegister := fun base s =>
  ⟨decodeOfEncodeIsTheInstruction (.jsrr base) rfl, _, exec_jsrr base s, linkAndJump_result s _⟩

end Sys2Proof.Machine
end

section
/-! PROOFS. TRAP, the exceptions and RTI: every entry into Supervisor mode is one sequence, and RTI undoes it (R130 to
R132 of 43_system.md; R150 to R160 of 60_exceptions.md; D4, D17, D19, log 10, 37). -/

namespace Sys2Proof.Machine

/-- Two words written at different addresses: each reads back, and every other address reads as before. -/
theorem Memory.read_two_writes {m : Memory} (hwf : m.wf = true) {p q : Word} (hpq : p ≠ q) (v w : Word) :
    ((m.write p.toNat v).write q.toNat w).read p.toNat = v ∧ ((m.write p.toNat v).write q.toNat w).read q.toNat = w ∧
    ∀ a : Word, a ≠ p → a ≠ q → ((m.write p.toNat v).write q.toNat w).read a.toNat = m.read a.toNat := by
  have hne {a b : Word} (h : a ≠ b) : a.toNat ≠ b.toNat := mt BitVec.toNat_inj.mp h
  refine ⟨?first, Memory.read_write_same (Memory.wf_write hwf p.isLt v) _ w, fun a hp hq => ?other⟩
  case first => rw [Memory.read_write_ne _ w (hne hpq), Memory.read_write_same hwf]
  case other => rw [Memory.read_write_ne _ w (hne hq), Memory.read_write_ne _ v (hne hp)]

/-- The state an entry pushes on: the PC to push, Supervisor mode and its stack, and an interrupt's priority (R130,
R154). The next three lemmas tie it to the model. -/
def entryState (s : State) (pc : Word) (level : Option (BitVec 3)) : State :=
  (enterSupervisor (s.setPc pc)).raisePriority level

theorem trapThroughTable_eq (vect : BitVec 8) (s : State) :
    trapThroughTable vect s = pushAndVector (entryState s s.pc none) s.psr (zext16 vect) := rfl

theorem raise_eq (c : Cause) (s : State) :
    raise c s = pushAndVector (entryState s (exceptionPc s) none) s.psr (0x0100 + zext16 c.vector) := rfl

theorem initiateInterrupt_eq (s : State) :
    initiateInterrupt s = pushAndVector (entryState s s.pc (some 4)) s.psr 0x0180 := rfl

/-- Raising the priority touches the PSR alone. -/
theorem entryState_eq (s : State) (pc : Word) (level : Option (BitVec 3)) :
    entryState s pc level = (enterSupervisor (s.setPc pc)).setPsr (entryState s pc level).psr :=
  raisePriority_frame _ level

section
variable (s : State) (pc : Word) (level : Option (BitVec 3))

theorem entryState_pc : (entryState s pc level).pc = pc := by
  rw [entryState_eq, State.setPsr_pc, enterSupervisor_pc, State.setPc_pc]

theorem entryState_mem : (entryState s pc level).mem = s.mem := by
  rw [entryState_eq, State.setPsr_mem, enterSupervisor_mem, State.setPc_mem]

theorem entryState_r6 : (entryState s pc level).reg .r6 = entrySp s := by
  rw [entryState_eq, State.setPsr_reg, enterSupervisor_r6]
  rfl

theorem entryState_reg {q : Reg} (hq : q ≠ .r6) : (entryState s pc level).reg q = s.reg q := by
  rw [entryState_eq, State.setPsr_reg, enterSupervisor_reg _ hq, State.setPc_reg]

theorem entryState_savedUsp :
    (entryState s pc level).savedUsp = if s.userMode then s.reg .r6 else s.savedUsp := by
  rw [entryState_eq, State.setPsr_savedUsp, enterSupervisor_savedUsp]
  rfl

theorem entryState_savedSsp : (entryState s pc level).savedSsp = s.savedSsp := by
  rw [entryState_eq, State.setPsr_savedSsp, enterSupervisor_savedSsp, State.setPc_savedSsp]

theorem entryState_rest : SameDevices s (entryState s pc level) ∧ SameHost s (entryState s pc level) := by
  rw [entryState_eq]
  exact enterSupervisor_rest (s.setPc pc)

/-- An entry ends in Supervisor mode (R130, R154). -/
theorem entryState_userMode : (entryState s pc level).userMode = false := by
  rw [State.userMode, entryState, entered_psr_bit]
  cases level <;> rfl

/-- The priority is the interrupt's, or kept (R154, R160). -/
theorem entryState_priority : (entryState s pc level).priority = level.getD s.priority := by
  cases level with
  | none =>
    refine extract_priority_congr fun b _ hb => ?_
    rw [entryState, entered_psr_bit]
    simp [show b ≠ 15 by omega]
  | some l =>
    apply BitVec.eq_of_getLsbD_eq
    intro k hk
    rw [State.priority, BitVec.getLsbD_extractLsb', entryState, entered_psr_bit]
    simp [-BitVec.getLsbD_eq_getElem, hk, show 8 + k < 11 by omega]

/-- An entry keeps every PSR bit but the mode and the priority (R130, R154). -/
theorem entryState_psr_bit {b : Nat} (hb : b < 8 ∨ 11 ≤ b ∧ b < 15) :
    (entryState s pc level).psr.getLsbD b = s.psr.getLsbD b := by
  have h15 : b ≠ 15 := by omega
  have hpriority : ¬(8 ≤ b ∧ b < 11) := by omega
  rw [entryState, entered_psr_bit]
  cases level <;> simp [h15, hpriority]

end

/-- Every entry through a table entry, with the stack in plain memory (R130, R154). -/
theorem exists_entered {s : State} (hready : StackReady s) (pc : Word) (level : Option (BitVec 3)) {entry : Word}
    (hentry : isDevice entry = false) :
    ∃ t, pushAndVector (entryState s pc level) s.psr entry = .next t ∧ Entered s t pc level entry := by
  obtain ⟨hwf, h1, h2⟩ := hready
  rw [← entryState_r6 s pc level] at h1 h2
  refine ⟨_, pushAndVector_plain s.psr entry h1 h2 hentry, ?_⟩
  rw [entryState_r6, entryState_mem, entryState_pc]
  have hne : entrySp s - 1 ≠ entrySp s - 2 := by bv_omega
  obtain ⟨hpsr, hpc, hother⟩ := Memory.read_two_writes hwf hne s.psr pc
  obtain ⟨hdevices, hhost⟩ := entryState_rest s pc level
  exact ⟨hpsr, hpc, hother, by simp, fun q hq => by simp [hq, entryState_reg], entryState_savedUsp s pc level,
    entryState_savedSsp s pc level, entryState_userMode s pc level, entryState_priority s pc level,
    fun _ hb => entryState_psr_bit s pc level hb, rfl, hdevices, hhost⟩

/-- TRAP under OS_IMAGE = concrete goes through the trap vector table (R130). -/
theorem exec_trap_concrete {s : State} (hos : s.params.osImage = .concrete) (vect : BitVec 8) :
    exec (.trap vect) s = trapThroughTable vect s := by
  show execTrap vect s = _
  rw [execTrap, hos]

/-- TRAP under OS_IMAGE = abstract is its vector's contract (R133, D15). -/
theorem exec_trap_abstract {s : State} (hos : s.params.osImage = .abstract) (vect : BitVec 8) :
    exec (.trap vect) s = trapContract vect s := by
  show execTrap vect s = _
  rw [execTrap, hos]

/-- RTI in User mode (R131). -/
theorem exec_rti_user {s : State} (hu : s.userMode = true) : exec .rti s = raise .privilegeModeViolation s := if_pos hu

/-- RTI in Supervisor mode (R131). -/
theorem exec_rti_supervisor {s : State} (hs : s.userMode = false) : exec .rti s = returnFromSupervisor s := by
  show execRti s = _
  rw [execRti, hs]
  rfl

/-- The reserved opcode, whatever its other bits (R88, R132). -/
theorem exec_reserved (b : BitVec 12) (s : State) : exec (.reserved b) s = raise .illegalOpcode s := rfl

/-- The entries of the trap vector table are plain memory. -/
theorem isDevice_trapEntry (vect : BitVec 8) : isDevice (zext16 vect) = false := by
  have hvect : (zext16 vect).toNat = vect.toNat := zext16_toNat (by decide) vect
  exact isDevice_table (by omega)

/-- The entries of the exceptions are plain memory. -/
theorem isDevice_exceptionEntry (c : Cause) : isDevice (0x0100 + zext16 c.vector) = false := by
  cases c <;> decide

theorem exists_trap_entered {s : State} (hos : s.params.osImage = .concrete) (hready : StackReady s) (vect : BitVec 8) :
    ∃ t, exec (.trap vect) s = .next t ∧ Entered s t s.pc none (zext16 vect) := by
  rw [exec_trap_concrete hos, trapThroughTable_eq]
  exact exists_entered hready s.pc none (isDevice_trapEntry vect)

/-- Every exception (R154, R160). -/
theorem exists_raise_entered {s : State} (hready : StackReady s) (c : Cause) :
    ∃ t, raise c s = .next t ∧ Entered s t (exceptionPc s) none (0x0100 + zext16 c.vector) := by
  rw [raise_eq]
  exact exists_entered hready (exceptionPc s) none (isDevice_exceptionEntry c)

/-- The keyboard's interrupt (R164). -/
theorem exists_interrupt_entered {s : State} (hready : StackReady s) :
    ∃ t, initiateInterrupt s = .next t ∧ Entered s t s.pc (some 4) 0x0180 := by
  rw [initiateInterrupt_eq]
  exact exists_entered hready s.pc (some 4) (by decide)

/-- The PC an exception pushes, by the value of EXC_PC (R159, D4). -/
theorem exceptionPc_eq (s : State) :
    exceptionPc s = if s.params.excPc = .incremented then s.pc else s.pc - 1 := by
  unfold exceptionPc
  cases s.params.excPc <;> rfl

/-- Settles O38: the entry is the shared sequence, and its first push is the first thing that can stop. -/
theorem trapEntersTheServiceRoutine : Obligations.TrapEntersTheServiceRoutine := by
  intro vect s
  refine ⟨decodeOfEncodeIsTheInstruction (.trap vect) rfl, fun hos hready => exists_trap_entered hos hready vect,
    fun hos r hpush => ?_⟩
  rw [exec_trap_concrete hos, trapThroughTable, pushAndVector, hpush, andThen_refused]

/-- What two pops from plain memory make of a state, before the new PSR is examined: both increments of R6, the PC and
the whole PSR (R131). `returnFromSupervisor_plain` ties it to the model. -/
def popped (s : State) : State :=
  ((s.setReg .r6 (s.reg .r6 + 2)).setPc (s.word (s.reg .r6))).setPsr (s.word (s.reg .r6 + 1))

theorem popped_r6 (s : State) : (popped s).reg .r6 = s.reg .r6 + 2 := by simp [popped]

/-- The pops change no other register, no memory and no device. -/
theorem popped_frame (s : State) :
    SameRegsBut .r6 s (popped s) ∧ SameMemory s (popped s) ∧ SameDevices s (popped s) ∧ SameHost s (popped s) :=
  ⟨fun q hq => by simp [popped, hq], fun _ => rfl, ⟨rfl, rfl, rfl, rfl, rfl, rfl, rfl⟩, rfl, rfl, rfl, rfl⟩

/-- RTI's return from a stack in plain memory (R131). -/
theorem returnFromSupervisor_plain {s : State} (h1 : isDevice (s.reg .r6) = false)
    (h2 : isDevice (s.reg .r6 + 1) = false) :
    returnFromSupervisor s = .next (if (popped s).userMode then toUserStack (popped s) else popped s) := by
  have hsum : s.reg .r6 + 1 + 1 = s.reg .r6 + 2 := by bv_omega
  have hr6 (pc : Word) : ((s.setReg .r6 (s.reg .r6 + 1)).setPc pc).reg .r6 = s.reg .r6 + 1 := by simp
  have htwice (pc : Word) : ((s.setReg .r6 (s.reg .r6 + 1)).setPc pc).setReg .r6 (s.reg .r6 + 2) =
      (s.setReg .r6 (s.reg .r6 + 2)).setPc pc := by simp only [State.setReg, State.setPc, Regs.set_set]
  unfold returnFromSupervisor
  rw [pop_plain h1, andThen_next, pop_plain (by rwa [hr6]), andThen_next, hr6, hsum, htwice]
  rfl

/-- A stop of the first pop is RTI's. -/
theorem returnFromSupervisor_refused {s : State} {r : Refusal} (h : memRead s (s.reg .r6) = .refused r) :
    returnFromSupervisor s = .refused r := by
  rw [returnFromSupervisor, pop, h]
  rfl

/-- Settles O39: the popped PSR decides between the two stacks. -/
theorem rtiRestoresPcAndPsr : Obligations.RtiRestoresPcAndPsr := by
  intro s hs
  rw [exec_rti_supervisor hs]
  refine ⟨decodeOfEncodeIsTheInstruction .rti rfl, fun h1 h2 => ?_, fun r => returnFromSupervisor_refused⟩
  rw [returnFromSupervisor_plain h1 h2]
  obtain ⟨hregs, hmem, hdevices, hhost⟩ := popped_frame s
  cases hu : (popped s).userMode with
  | true =>
    have hr6 : (toUserStack (popped s)).reg .r6 = s.savedUsp := by simp [toUserStack, popped]
    have hother : SameRegsBut .r6 s (toUserStack (popped s)) := fun q hq => by simp [toUserStack, hq, hregs q]
    exact ⟨toUserStack (popped s), rfl, rfl, rfl, fun _ => ⟨popped_r6 s, hr6⟩,
      fun hsup => absurd hu (Bool.eq_false_iff.mp hsup), rfl, hother, hmem, hdevices, hhost⟩
  | false =>
    exact ⟨popped s, rfl, rfl, rfl, fun huser => absurd huser (Bool.eq_false_iff.mp hu), fun _ => ⟨rfl, popped_r6 s⟩,
      rfl, hregs, hmem, hdevices, hhost⟩

/-- Settles O40. -/
theorem rtiInUserModeIsAViolation : Obligations.RtiInUserModeIsAViolation := by
  intro s hu
  refine ⟨exec_rti_user hu, fun hready => ?_⟩
  rw [exec_rti_user hu, ← exceptionPc_eq]
  exact exists_raise_entered hready .privilegeModeViolation

/-- Settles O41. -/
theorem reservedOpcodeIsIllegal : Obligations.ReservedOpcodeIsIllegal := by
  intro b s hready
  rw [exec_reserved, ← exceptionPc_eq]
  exact exists_raise_entered hready .illegalOpcode

/-- Whatever the kind of the entry, it ended as an entry that pushed pc (R130, R154). -/
theorem entered_of_entry {s t : State} {pc : Word} (hready : StackReady s)
    (h : (∃ vect, s.params.osImage = .concrete ∧ exec (.trap vect) s = .next t ∧ pc = s.pc) ∨
      (∃ c, raise c s = .next t ∧ pc = exceptionPc s) ∨ (initiateInterrupt s = .next t ∧ pc = s.pc)) :
    ∃ level entry, Entered s t pc level entry := by
  have same {o : Result State} {level : Option (BitVec 3)} {entry : Word} (ho : o = .next t)
      (hex : ∃ t', o = .next t' ∧ Entered s t' pc level entry) : ∃ level entry, Entered s t pc level entry := by
    obtain ⟨t', ht', hentered⟩ := hex
    cases ho.symm.trans ht'
    exact ⟨level, entry, hentered⟩
  rcases h with ⟨vect, hos, ho, rfl⟩ | ⟨c, ho, rfl⟩ | ⟨ho, rfl⟩
  · exact same ho (exists_trap_entered hos hready vect)
  · exact same ho (exists_raise_entered hready c)
  · exact same ho (exists_interrupt_entered hready)

/-- Settles O44: the pops of O39 read the two words of `Entered`, and the switch of stacks goes back by the mode of the
PSR that was pushed. -/
theorem rtiUndoesEveryEntry : Obligations.RtiUndoesEveryEntry := by
  intro s t u pc hready hentry hu hr6 husp hssp hword hword1
  obtain ⟨level, entry, hpsrWord, hpcWord, -, hsp, -, htusp, htssp, -⟩ := entered_of_entry hready hentry
  obtain ⟨-, hdev1, hdev2⟩ := hready
  have hsp1 : entrySp s - 2 + 1 = entrySp s - 1 := by bv_omega
  have hsp2 : entrySp s - 2 + 2 = entrySp s := by bv_omega
  rw [hsp] at hr6 hword hword1
  rw [hsp1] at hword1
  obtain ⟨-, hreturn, -⟩ := rtiRestoresPcAndPsr u hu
  rw [hr6, hsp1, hsp2] at hreturn
  obtain ⟨v, hexec, hpc, hpsr, huser, hsup, hvusp, hregs, hmem, -⟩ := hreturn hdev2 hdev1
  have hvpsr : v.psr = s.psr := hpsr.trans (hword1.trans hpsrWord)
  have hmode : v.userMode = s.userMode := userMode_of_psr_eq hvpsr
  refine ⟨v, hexec, hpc.trans (hword.trans hpcWord), hvpsr, ?_⟩
  cases hcaller : s.userMode with
  | true =>
    obtain ⟨hvssp, hvr6⟩ := huser (hmode.trans hcaller)
    simp only [entrySp, hcaller, if_true] at hvssp htusp
    exact ⟨hvr6.trans (husp.trans htusp), hvssp, nofun, hregs, hmem⟩
  | false =>
    obtain ⟨hvssp, hvr6⟩ := hsup (hmode.trans hcaller)
    simp only [entrySp, hcaller, Bool.false_eq_true, if_false] at hvr6 htusp
    exact ⟨hvr6, hvssp.trans (hssp.trans htssp), fun _ => hvusp.trans (husp.trans htusp), hregs, hmem⟩

end Sys2Proof.Machine
end

section
/-! PROOFS. Supervisor mode under PSR_STORE_POLICY = refuse: no update in place changes the mode, and every entry ends in
Supervisor mode (R142, R170; D8, log 16). -/

namespace Sys2Proof.Machine

/-- The parameters stay, and under PSR_STORE_POLICY = refuse the mode does. -/
def KeepsMode (s t : State) : Prop :=
  t.params = s.params ∧ (s.params.psrStore = .refuse → t.userMode = s.userMode)

theorem KeepsMode.of_psr {s t : State} (hparams : t.params = s.params)
    (hpsr : s.params.psrStore = .refuse → t.psr = s.psr) : KeepsMode s t :=
  ⟨hparams, fun hp => userMode_of_psr_eq (hpsr hp)⟩

theorem keepsMode_carriedInMode : CarriedInMode KeepsMode where
  refl _ := .of_psr rfl fun _ => rfl
  trans _ _ _ h1 h2 := ⟨h2.1.trans h1.1, fun hp => (h2.2 (h1.1 ▸ hp)).trans (h1.2 hp)⟩
  setReg _ _ _ := .of_psr rfl fun _ => rfl
  setPc _ _ := .of_psr rfl fun _ => rfl
  setcc s v := ⟨rfl, fun _ => setcc_samePsrAboveCodes s v 15 (by decide)⟩
  setKbsrReady _ _ := .of_psr rfl fun _ => rfl
  draw _ := .of_psr rfl fun _ => rfl
  write _ _ _ _ _ e := by
    obtain ⟨-, -, -, -, -, -, -, -, hparams, -, -, hpsr, -⟩ := memWrite_frame e
    exact .of_psr hparams hpsr

/-- TRAP enters Supervisor mode, or under OS_IMAGE = abstract keeps the PSR (R130, R133). -/
theorem trap_supervisor {vect : BitVec 8} {s t : State} (hs : s.userMode = false)
    (hpolicy : s.params.psrStore = .refuse) (e : exec (.trap vect) s = .next t) : t.userMode = false := by
  cases hos : s.params.osImage with
  | concrete =>
    rw [exec_trap_concrete hos] at e
    exact (trapThroughTable_enters e).supervisor hpolicy
  | abstract =>
    rw [exec_trap_abstract hos] at e
    obtain ⟨hpsr, -⟩ := trapContract_frame e
    exact (userMode_of_psr_eq hpsr).trans hs

/-- Every instruction but RTI keeps Supervisor mode: an ACV exception is User mode's alone, and the other entries end in
Supervisor mode. -/
theorem exec_supervisor {i : Instr} {s t : State} (hi : i ≠ .rti) (hs : s.userMode = false)
    (hpolicy : s.params.psrStore = .refuse) (e : exec i s = .next t) : t.userMode = false := by
  cases hsys : isSystem i with
  | false =>
    rcases keepsMode_carriedInMode.exec hsys e with ⟨-, hmode⟩ | ⟨hu, -, -⟩
    · exact (hmode hpolicy).trans hs
    · exact absurd hu (Bool.eq_false_iff.mp hs)
  | true =>
    cases i with
    | trap vect => exact trap_supervisor hs hpolicy e
    | reserved bits => exact (raise_enters (c := .illegalOpcode) e).supervisor hpolicy
    | rti => exact absurd rfl hi
    | _ => cases hsys

/-- Settles O53. -/
theorem onlyRtiLeavesSupervisorMode : Obligations.OnlyRtiLeavesSupervisorMode := by
  intro i s t hs hpolicy e ht
  by_contra hi
  exact Bool.false_ne_true ((exec_supervisor hi hs hpolicy e).symm.trans ht)

end Sys2Proof.Machine
end

section
/-! PROOFS. The contracts of the trap service routines (R133 to R140 of 43_system.md; D15, log 25): each either waits or
is one step made of a consumed key, displayed characters and a stopped clock. -/

namespace Sys2Proof.Machine

section Equations
variable {s : State} (hos : s.params.osImage = .abstract)
include hos

/-- GETC (R134). -/
theorem exec_getc : exec (.trap 0x20) s = .next (if s.kbsrReady then consumeKey s else waitAtTrap s) :=
  exec_trap_abstract hos 0x20

/-- OUT (R135). -/
theorem exec_out : exec (.trap 0x21) s =
    .next (if s.dsrReady then displayString s [(s.reg .r0).extractLsb' 0 8] else waitAtTrap s) :=
  exec_trap_abstract hos 0x21

/-- PUTS (R136). -/
theorem exec_puts : exec (.trap 0x22) s = writeString putsChars s := exec_trap_abstract hos 0x22

/-- IN (R137). -/
theorem exec_in : exec (.trap 0x23) s = .next (if s.kbsrReady && s.dsrReady then
      displayString (consumeKey s.draw) (Config.inPrompt s.freeCount ++ [s.kbdr.extractLsb' 0 8])
    else waitAtTrap s) :=
  exec_trap_abstract hos 0x23

/-- PUTSP (R138). -/
theorem exec_putsp : exec (.trap 0x24) s = writeString putspChars s := exec_trap_abstract hos 0x24

/-- HALT; clearing MCR[15] is the same function of a word as clearing PSR[15] (R139). -/
theorem exec_halt : exec (.trap 0x25) s = .next (if s.dsrReady then
      { s.draw with output := s.output ++ Config.haltMessage s.freeCount, mcr := Psr.supervisor s.mcr }
    else waitAtTrap s) :=
  exec_trap_abstract hos 0x25

end Equations

/-- A vector without a routine (R140). -/
theorem trapContract_noRoutine {vect : BitVec 8} (h : vect.toNat < 0x20 ∨ 0x25 < vect.toNat) (s : State) :
    trapContract vect s = .refused .noTrapRoutine := by
  unfold trapContract
  split
  case h_7 => rfl
  all_goals omega

/-- The key consumed is R0, zero-extended, and no other register changes (R134). -/
theorem consumeKey_regs (s : State) :
    ((consumeKey s).reg .r0).toNat = s.kbdr.toNat % 256 ∧ SameRegsBut .r0 s (consumeKey s) := by
  have hr0 : (consumeKey s).reg .r0 = zext16 (s.kbdr.extractLsb' 0 8) := by simp [consumeKey]
  refine ⟨?_, fun q hq => by simp [consumeKey, hq]⟩
  rw [hr0, zext16_toNat (by decide), toNat_extract, pow_zero, Nat.div_one]
  rfl

/-- Displaying leaves all but the output, DSR[15] and DDR. -/
theorem displayString_keeps (s : State) (cs : List Byte) :
    (displayString s cs).regs = s.regs ∧ (displayString s cs).pc = s.pc ∧ (displayString s cs).psr = s.psr ∧
    SameSaved s (displayString s cs) ∧ SameMemory s (displayString s cs) ∧ (displayString s cs).mcr = s.mcr ∧
    (displayString s cs).kbsrReady = s.kbsrReady ∧ (displayString s cs).kbsrIe = s.kbsrIe ∧
    (displayString s cs).kbdr = s.kbdr ∧ SameHost s (displayString s cs) := by
  rw [(displayString_frame s cs).2]
  exact ⟨rfl, rfl, rfl, ⟨rfl, rfl⟩, fun _ => rfl, rfl, rfl, rfl, rfl, rfl, rfl, rfl, rfl⟩

/-- What is displayed is appended to the output (R174). -/
theorem displayString_output (s : State) (cs : List Byte) : (displayString s cs).output = s.output ++ cs :=
  (displayString_frame s cs).1

/-- A string in plain memory, with the display ready: its characters are displayed (R136, R138). -/
theorem writeString_plain (chars : List Word → List Byte) {s : State} {ws : List Word} (hd : s.dsrReady = true)
    (hlen : ws.length < stringFuel) (hn : ∀ w ∈ ws, w ≠ 0) (hh : HoldsWords s (s.reg .r0) (ws ++ [0])) :
    writeString chars s = .next (displayString s (chars ws)) := by
  rw [writeString, if_pos hd, stringWords_plain hlen hn hh, andThen_next]

/-- With the display busy a string waits (log 42). -/
theorem writeString_waits (chars : List Word → List Byte) {s : State} (hd : s.dsrReady = false) :
    writeString chars s = .next (s.setPc (s.pc - 1)) := by
  rw [writeString, hd]
  rfl

/-- Settles O47. -/
theorem stringContracts : Obligations.StringContracts := by
  intro s hos
  rw [exec_puts hos, exec_putsp hos]
  refine ⟨fun ws hd hlen hn hh => ?ready, fun hd => ⟨writeString_waits _ hd, writeString_waits _ hd⟩⟩
  have hdisplay (chars : List Word → List Byte) := writeString_plain chars hd hlen hn hh
  exact ⟨⟨_, hdisplay putsChars, displayString_output s _, displayString_keeps s _⟩,
    ⟨_, hdisplay putspChars, displayString_output s _, displayString_keeps s _⟩⟩

/-- Settles O45. -/
theorem getcContract : Obligations.GetcContract := by
  intro s hos
  obtain ⟨hr0, hregs⟩ := consumeKey_regs s
  rw [exec_getc hos]
  refine ⟨_, rfl, ?_⟩
  cases hready : s.kbsrReady with
  | true =>
    exact ⟨fun _ => ⟨hr0, hregs, rfl, rfl⟩, nofun, rfl, ⟨rfl, rfl⟩, fun _ => rfl, rfl, rfl, rfl, rfl, rfl, rfl,
      rfl, rfl, rfl, rfl⟩
  | false =>
    exact ⟨nofun, fun _ => ⟨rfl, hready, rfl⟩, rfl, ⟨rfl, rfl⟩, fun _ => rfl, rfl, rfl, rfl, rfl, rfl, rfl,
      rfl, rfl, rfl, rfl⟩

/-- Settles O46: IN is OUT's display after GETC's key. -/
theorem outAndInContracts : Obligations.OutAndInContracts := by
  intro s hos
  rw [exec_out hos, exec_in hos]
  refine ⟨fun hd => ?out, fun hd hk => ?inn, fun hd => ?busy, fun hd hk => ?noKey⟩
  case out =>
    rw [if_pos hd]
    exact ⟨_, rfl, displayString_output s _, displayString_keeps s _⟩
  case inn =>
    rw [hk, hd, Bool.and_self, if_pos rfl]
    obtain ⟨hr0, hregs⟩ := consumeKey_regs s.draw
    obtain ⟨kregs, kpc, kpsr, ksaved, kmem, kmcr, kready, kie, kkbdr, kkeys, ksched, kparams, -⟩ :=
      displayString_keeps (consumeKey s.draw) (Config.inPrompt s.freeCount ++ [s.kbdr.extractLsb' 0 8])
    have kreg (q : Reg) := congrArg (Regs.get · q) kregs
    exact ⟨_, Config.inPrompt s.freeCount, rfl, (displayString_output _ _).trans (List.append_assoc ..).symm,
      (congrArg BitVec.toNat (kreg .r0)).trans hr0, fun q hq => (kreg q).trans (hregs q hq), kready, kpc, kpsr, ksaved,
      kmem, kmcr, kie, kkbdr, kkeys, ksched, kparams⟩
  case busy =>
    rw [hd, Bool.and_false]
    exact ⟨rfl, rfl⟩
  case noKey =>
    rw [hk]
    rfl

/-- Settles O48. -/
theorem haltContract : Obligations.HaltContract := by
  intro s hos
  refine ⟨fun hd => ?halts, fun hd => ?waits, fun vect hvect => ?noRoutine⟩
  case halts =>
    have hlow (b : Nat) (hb : b < 15) : (Psr.supervisor s.mcr).getLsbD b = s.mcr.getLsbD b := by
      simp [Psr.supervisor_bit, show b ≠ 15 by omega]
    rw [exec_halt hos, if_pos hd]
    exact ⟨_, Config.haltMessage s.freeCount, rfl, rfl, Psr.supervisor_bit s.mcr 15, hlow, rfl, rfl, rfl, ⟨rfl, rfl⟩,
      fun _ => rfl, rfl, rfl, rfl, rfl, rfl, rfl, rfl, rfl⟩
  case waits =>
    rw [exec_halt hos, hd]
    rfl
  case noRoutine => rw [exec_trap_abstract hos, trapContract_noRoutine hvect]

end Sys2Proof.Machine
end

section
/-! PROOFS. The stack in plain memory: a push and the pop that undoes it (R152, R153 of 60_exceptions.md; D17, log
37). -/

namespace Sys2Proof.Machine

theorem Regs.set_get_self (g : Regs) (r : Reg) : g.set r (g.get r) = g := by
  cases r <;> rfl

/-- What a push of v onto plain memory makes of a state: R6 - 1, and v at the new R6 (R152). `push_eq_pushed` ties it to
the model. -/
def pushed (s : State) (v : Word) : State :=
  (s.setReg .r6 (s.reg .r6 - 1)).setMem (s.mem.write (s.reg .r6 - 1).toNat v)

section
variable {s : State} (v : Word)

theorem push_eq_pushed (hplain : isDevice (s.reg .r6 - 1) = false) : push s v = .next (pushed s v) :=
  push_plain v rfl hplain

theorem pushed_r6 : (pushed s v).reg .r6 = s.reg .r6 - 1 := by
  simp [pushed]

/-- After R6 is decremented a push is a store. -/
theorem pushed_storeResult (hwf : s.mem.wf = true) :
    StoreResult (s.setReg .r6 (s.reg .r6 - 1)) (pushed s v) (s.reg .r6 - 1) v :=
  storeResult_setMem (s := s.setReg .r6 (s.reg .r6 - 1)) hwf (s.reg .r6 - 1) v

/-- A pop after a push reads the word pushed and puts R6 back (R153). -/
theorem pop_pushed (hwf : s.mem.wf = true) (hplain : isDevice (s.reg .r6 - 1) = false) :
    pop (pushed s v) = .next (v, (pushed s v).setReg .r6 (s.reg .r6)) := by
  obtain ⟨hword, -⟩ := pushed_storeResult v hwf
  have hr6 : s.reg .r6 - 1 + 1 = s.reg .r6 := BitVec.sub_add_cancel _ _
  rw [pop_plain (by rwa [pushed_r6]), pushed_r6, hword, hr6]

/-- Both writes of R6 together leave the registers as they were. -/
theorem pushed_setReg_regs : ((pushed s v).setReg .r6 (s.reg .r6)).regs = s.regs := by
  simp only [pushed, State.setReg_regs, State.setMem_regs, Regs.set_set, State.reg, Regs.set_get_self]

end

/-- Settles O37. -/
theorem pushThenPopReturnsTheWord : Obligations.PushThenPopReturnsTheWord := by
  intro s v hwf hplain
  obtain ⟨hregs, -, hrest⟩ := setReg_frame s .r6 (s.reg .r6 - 1)
  obtain ⟨hword, hother, -, hpsr, hpc, -⟩ := pushed_storeResult v hwf
  exact ⟨pushed s v, push_eq_pushed v hplain, pushed_r6 v, hword, hregs, hother, hpc, hpsr, hrest,
    _, pop_pushed v hwf hplain, pushed_setReg_regs v, fun _ => rfl, hpc, hpsr, hrest⟩

end Sys2Proof.Machine
end

section
/-! PROOFS. The ACV exception and the keyboard's interrupt: two entries into Supervisor mode (R154, R158, R160, R163 to
R165 of 60_exceptions.md; D4, D14, D19, log 10, 37). -/

namespace Sys2Proof.Machine

/-- Settles O42. -/
theorem acvEntersThroughX0102 : Obligations.AcvEntersThroughX0102 := by
  intro s hready
  rw [← exceptionPc_eq]
  exact exists_raise_entered hready .acv

/-- With the clock running a waiting interrupt is what the processor's move is (R163, R165). -/
theorem processorStep_interrupt {s : State} (hclock : s.clockEnabled = true) (hint : interruptCondition s = true) :
    processorStep s = initiateInterrupt s := by
  rw [processorStep, if_pos hclock, if_pos hint]

/-- At PL4 and above the keyboard does not interrupt (R163). -/
theorem interruptCondition_of_priority {s : State} (h : 4 ≤ s.priority.toNat) : interruptCondition s = false := by
  refine Bool.eq_false_iff.mpr fun hint => ?_
  obtain ⟨-, -, hlow⟩ := (interruptCondition_iff s).mp hint
  omega

theorem Entered.priority_eq {s t : State} {pc entry : Word} {level : Option (BitVec 3)}
    (h : Entered s t pc level entry) : t.priority = level.getD s.priority := by
  obtain ⟨-, -, -, -, -, -, -, -, hpriority, -⟩ := h
  exact hpriority

theorem Entered.sameDevices {s t : State} {pc entry : Word} {level : Option (BitVec 3)}
    (h : Entered s t pc level entry) : SameDevices s t := by
  obtain ⟨-, -, -, -, -, -, -, -, -, -, -, hdevices, -⟩ := h
  exact hdevices

/-- Settles O43: the entry keeps KBSR, and the PL4 it runs at is what masks the request. -/
theorem keyboardInterruptIsTaken : Obligations.KeyboardInterruptIsTaken := by
  intro s hturn hclock hkey hie hlow hready
  have hint : interruptCondition (takeTurn s) = true := (interruptCondition_iff (takeTurn s)).mpr ⟨hkey, hie, hlow⟩
  obtain ⟨t, hentry, hentered⟩ := exists_interrupt_entered (s := takeTurn s) hready
  obtain ⟨-, hkbsr, -⟩ := hentered.sameDevices
  have hlevel : t.priority = 4 := hentered.priority_eq
  refine ⟨t, ?step, hentered, hkbsr.trans hkey, interruptCondition_of_priority ?masked⟩
  case step => exact (step_processor hturn).trans ((processorStep_interrupt (s := takeTurn s) hclock hint).trans hentry)
  case masked =>
    rw [hlevel]
    decide

end Sys2Proof.Machine
end

section
/-! PROOFS. The moves of the keyboard and the display (R171, R174 of 60_exceptions.md; R192, R203 of
70_reset_and_hazards.md; D10, D11, D20, log 12, 13, 21). -/

namespace Sys2Proof.Machine

/-- A key that need not wait is delivered (R171). -/
theorem keyArrives_delivers {s : State} {c : Byte} {rest : List Byte} (hkeys : s.keys = c :: rest)
    (h : s.kbsrReady = false ∨ s.params.kbdOverrun = .overwrite) :
    keyArrives s = { s with kbdr := zext16 c, kbsrReady := true, keys := rest } := by
  have hgo : (s.kbsrReady && s.params.kbdOverrun == .hold) = false := by
    rcases h with hfree | hoverwrite
    · rw [hfree, Bool.false_and]
    · rw [hoverwrite]
      exact Bool.and_false _
  unfold keyArrives
  rw [hkeys]
  exact if_neg (Bool.eq_false_iff.mp hgo)

/-- Under KBD_OVERRUN = hold a key waits while KBSR[15] is 1 (D10). -/
theorem keyArrives_waits {s : State} (hfull : s.kbsrReady = true) (hhold : s.params.kbdOverrun = .hold) :
    keyArrives s = s := by
  unfold keyArrives
  rw [hfull, hhold]
  split <;> rfl

/-- Settles O12. -/
theorem keyboardMoveDeliversTheNextKey : Obligations.KeyboardMoveDeliversTheNextKey := by
  intro s c rest hturn hkeys
  rw [step_keyboard hturn]
  refine ⟨fun h => ⟨_, congrArg _ (keyArrives_delivers (s := takeTurn s) hkeys h), ?frame⟩,
    fun hfull hhold => congrArg _ (keyArrives_waits (s := takeTurn s) hfull hhold)⟩
  exact ⟨zext16_toNat (by decide) c, rfl, rfl, rfl, rfl, rfl, rfl, rfl, ⟨rfl, rfl⟩, rfl, rfl, rfl, rfl, rfl, rfl,
    rfl⟩

/-- With no schedule left a busy display moves next (R203, log 12). -/
theorem turn_of_busy {s : State} (hschedule : s.schedule = []) (hbusy : s.dsrReady = false) : turn s = .display := by
  simp [turn, hschedule, hbusy]

/-- Settles O13: in both cases it is the display's turn. -/
theorem displayMoveMakesItReady : Obligations.DisplayMoveMakesItReady := by
  intro s h
  have hturn : turn s = .display := h.elim id fun ⟨hschedule, hbusy⟩ => turn_of_busy hschedule hbusy
  exact ⟨_, step_display hturn, rfl, rfl, rfl, rfl, rfl, rfl, ⟨rfl, rfl⟩, rfl, rfl, rfl, rfl, rfl, rfl, rfl, rfl,
    rfl⟩

end Sys2Proof.Machine
end

section
/-! PROOFS. Stores to the device registers (R172 to R178 of 60_exceptions.md; D8, D10 to D12, log 16, 18, 19, 21 to
23). -/

namespace Sys2Proof.Machine

section Equations
variable (s : State) (v : Word)

/-- KBSR takes the IE bit alone (R172). -/
theorem memWrite_kbsr : memWrite s 0xFE00 v = .next (s.setKbsrIe (v.getLsbD s.params.kbdIeBit.val)) := rfl

/-- KBDR cannot be stored to (R173). -/
theorem memWrite_kbdr : memWrite s 0xFE02 v = .refused .kbdrStore := rfl

/-- DSR ignores the store (R175). -/
theorem memWrite_dsr : memWrite s 0xFE04 v = .next s := rfl

/-- A store to DDR goes to the display (R176). -/
theorem memWrite_ddr : memWrite s 0xFE06 v = ddrStore s v := rfl

/-- A store to the PSR falls to PSR_STORE_POLICY (R178). -/
theorem memWrite_psr : memWrite s 0xFFFC v = psrStore s v := rfl

/-- MCR takes all sixteen bits (R177). -/
theorem memWrite_mcr : memWrite s 0xFFFE v = .next (s.setMcr v) := rfl

end Equations

/-- Settles O30. -/
theorem deviceRegisterStores : Obligations.DeviceRegisterStores := by
  intro s v
  refine ⟨⟨_, memWrite_kbsr s v, rfl, rfl⟩, memWrite_kbdr s v, memWrite_dsr s v, ⟨_, memWrite_mcr s v, rfl⟩,
    fun refuse => ?_, fun write => ⟨s.setPsr v, ?_, rfl⟩⟩
  · rw [memWrite_psr, psrStore, refuse]
  · rw [memWrite_psr, psrStore, write]

/-- What displaying one character makes of a state: the output grows by it and DSR[15] is 0 (R174). -/
theorem display_one (s : State) (c : Byte) :
    display s [c] = { s with output := s.output ++ [c], dsrReady := false } := by
  rw [display, List.isEmpty_cons, Bool.and_false]

/-- A store to DDR that is displayed: the display is ready, or DDR_BUSY_STORE says so (R174, D11). -/
theorem ddrStore_displays {s : State} (v : Word) (h : s.dsrReady = true ∨ s.params.ddrBusyStore = .display) :
    ddrStore s v = .next { s with output := s.output ++ [v.setWidth 8], dsrReady := false, ddr := v } := by
  simp only [ddrStore, display_one]
  split
  next => rfl
  next hbusy => rw [h.resolve_left hbusy]

/-- While the display is busy, under DDR_BUSY_STORE = drop, only DDR takes the word (R174, D11). -/
theorem ddrStore_drops {s : State} (v : Word) (hbusy : s.dsrReady = false) (hdrop : s.params.ddrBusyStore = .drop) :
    ddrStore s v = .next { s with ddr := v } := by
  rw [ddrStore, hbusy, hdrop]
  rfl

/-- While the display is busy, under DDR_BUSY_STORE = refuse, the store has no meaning (R174, D11). -/
theorem ddrStore_refuses {s : State} (v : Word) (hbusy : s.dsrReady = false)
    (hrefuse : s.params.ddrBusyStore = .refuse) : ddrStore s v = .refused .ddrBusy := by
  rw [ddrStore, hbusy, hrefuse]
  rfl

/-- Settles O31. -/
theorem storeToDdrDisplays : Obligations.StoreToDdrDisplays := by
  intro s v
  rw [memWrite_ddr]
  have hchar : v.setWidth 8 = v.extractLsb' 0 8 := BitVec.setWidth_eq_extractLsb' (by decide)
  exact ⟨fun h => ⟨_, ddrStore_displays v h, by rw [hchar], rfl, rfl⟩, ddrStore_drops v, ddrStore_refuses v⟩

end Sys2Proof.Machine
end

section
/-! PROOFS. What the host sees and supplies (R191 to R193 of 70_reset_and_hazards.md; log 8, 12, 34): a placed word is
the next one run, and a step only takes from the host's sequences and adds to its output. -/

namespace Sys2Proof.Machine

/-- The host's load of a whole word places that word (R191, log 34). -/
theorem withFetchWord_toNat (s : State) (w : Word) : s.withFetchWord 16 w.toNat = placeNext s w := by
  rw [State.withFetchWord, Nat.mod_eq_of_lt w.isLt, BitVec.ofNat_toNat, BitVec.setWidth_eq]

/-- The turn placed is the one taken, so of the placing only the word remains. -/
theorem takeTurn_placeNext (s : State) (w : Word) :
    takeTurn (placeNext s w) = s.setMem (s.mem.write s.pc.toNat w) := rfl

/-- The fetch reads the word placed at the PC. -/
theorem placeNext_word_pc {s : State} (hwf : s.mem.wf = true) (w : Word) : (placeNext s w).word s.pc = w :=
  Memory.read_write_same hwf s.pc.toNat w

/-- Placing a word gives the processor the turn and touches nothing else the fetch depends on. -/
theorem placeNext_executes {s : State} (hclock : s.clockEnabled = true)
    (hint : ¬(s.kbsrReady = true ∧ s.kbsrIe = true ∧ s.priority.toNat < 4)) (hfetch : fetchViolation s s.pc = false)
    (hdev : isDevice s.pc = false) (w : Word) : Executes (placeNext s w) :=
  ⟨rfl, hclock, hint, hfetch, hdev⟩

/-- Settles O10: the state after the placing meets what O7 asks, with the placed word at the PC. -/
theorem placedWordIsRunNext : Obligations.PlacedWordIsRunNext := by
  intro s w i hwf hclock hint hfetch hdev hdec
  have hword : decode ((placeNext s w).word (placeNext s w).pc) = .ok i := (placeNext_word_pc hwf w).symm ▸ hdec
  rw [withFetchWord_toNat, ← takeTurn_placeNext]
  exact stepRunsTheDecodedInstruction _ i (placeNext_executes hclock hint hfetch hdev w) hword

/-- From s to t the parameters and the schedule stay, the output and the count of free values grow, and keys are taken
from the front alone (R192, R193). -/
def ExtendsHostsView (s t : State) : Prop :=
  t.params = s.params ∧ s.output <+: t.output ∧ t.keys <:+ s.keys ∧ t.schedule = s.schedule ∧
  s.freeCount ≤ t.freeCount

theorem ExtendsHostsView.refl (s : State) : ExtendsHostsView s s :=
  ⟨rfl, List.prefix_rfl, List.suffix_rfl, rfl, le_rfl⟩

theorem ExtendsHostsView.trans {s t u : State} (h1 : ExtendsHostsView s t) (h2 : ExtendsHostsView t u) :
    ExtendsHostsView s u := by
  obtain ⟨hparams1, hout1, hkeys1, hsched1, hfree1⟩ := h1
  obtain ⟨hparams2, hout2, hkeys2, hsched2, hfree2⟩ := h2
  exact ⟨hparams2.trans hparams1, hout1.trans hout2, hkeys2.trans hkeys1, hsched2.trans hsched1, hfree1.trans hfree2⟩

/-- A write may display a character, and no write draws a free value or touches the host's sequences. -/
theorem extendsHostsView_write {s t : State} {a v : Word} (e : memWrite s a v = .next t) : ExtendsHostsView s t := by
  obtain ⟨-, -, -, -, -, -, hkeys, hschedule, hparams, hfree, houtput, -⟩ := memWrite_frame e
  exact ⟨hparams, houtput, hkeys ▸ List.suffix_rfl, hschedule, hfree.ge⟩

/-- Of the primitive updates only displaying, drawing a free value and a write reach what the host sees. -/
theorem extendsHostsView_carried : Carried ExtendsHostsView where
  refl := .refl
  trans _ _ _ := .trans
  setReg s _ _ := .refl s
  setPc s _ := .refl s
  setPsr s _ := .refl s
  setSavedSsp s _ := .refl s
  setSavedUsp s _ := .refl s
  setKbsrReady s _ := .refl s
  setMcr s _ := .refl s
  draw s := ⟨rfl, List.prefix_rfl, List.suffix_rfl, rfl, Nat.le_succ s.freeCount⟩
  say s cs _ _ := ⟨rfl, List.prefix_append s.output cs, List.suffix_rfl, rfl, le_rfl⟩
  write _ _ _ _ := extendsHostsView_write

/-- An arriving key is the next of the host's keys (R192). -/
theorem extendsHostsView_keyArrives (s : State) : ExtendsHostsView s (keyArrives s) := by
  rcases keyArrives_cases s with h | ⟨c, rest, hkeys, h⟩ <;> rw [h]
  · exact .refl s
  · exact ⟨rfl, List.prefix_rfl, hkeys ▸ List.suffix_cons c rest, rfl, le_rfl⟩

/-- Once its turn is taken off the schedule, each agent's move only extends the host's view. -/
theorem step_extendsHostsView {s t : State} (e : step s = .next t) : ExtendsHostsView (takeTurn s) t := by
  rcases step_cases e with ⟨-, hproc⟩ | ⟨-, rfl⟩ | ⟨-, rfl⟩
  · exact extendsHostsView_carried.processorStep hproc
  · exact extendsHostsView_keyArrives (takeTurn s)
  · exact .refl (takeTurn s)

/-- Settles O52: taking the turn drops the head of the schedule and leaves the rest of the host's view. -/
theorem stepsOnlyExtendTheHostsView : Obligations.StepsOnlyExtendTheHostsView := fun _ _ => step_extendsHostsView

end Sys2Proof.Machine
end

section
/-! PROOFS. The words of the source's own examples (95_test_vectors.md section 2; R82, R83, R87). -/

namespace Sys2Proof

/-- Settles O6: each word, as a number, is the code of its instruction, that is the fixed bits of its row and its fields
at their weights; and the decoder names every instruction by its code. -/
theorem sourceExampleWordsDecode : Obligations.SourceExampleWordsDecode := by
  unfold Obligations.SourceExampleWordsDecode
  and_intros
  all_goals exact decode_of_toNat_eq_code rfl rfl

end Sys2Proof
end
